-- ==== Sys2Proof/Word.lean ====
section
/-! DEFINITION. The two word widths of the hardware (00_scope.md R8). -/

namespace Sys2Proof

/-- Data and the registers A, X, Y, SP are 8 bits; the status byte is 8 bits (R8). -/
abbrev Byte := BitVec 8

/-- The program counter and every address are 16 bits (R8). -/
abbrev Addr := BitVec 16

end Sys2Proof
end

