-- ==== Sys2Proof/Machine/Bytes.lean ====
section
/-! DEFINITION. Byte-order, bit-field and sign-extension helpers (00_scope.md R10, R11; 20_memory.md R80). -/

namespace Sys2Proof.Machine

/-- `hi:lo`, the 16-bit value of two bytes (R11); little-endian pairs are read low byte first (R75, R80). -/
def addrOfBytes (lo hi : Byte) : Addr := hi ++ lo

/-- `v[7:0]` (R10). -/
def loByte (v : Addr) : Byte := v.extractLsb' 0 8

/-- `v[15:8]`, also an address's page number (R10, R15). -/
def hiByte (v : Addr) : Byte := v.extractLsb' 8 8

/-- `zext_16(b)`: a byte as a 16-bit value (R11). -/
def zext16 (b : Byte) : Addr := b.setWidth 16

/-- `sext_8(b)`: the signed value of a byte (R11). -/
def sext8 (b : Byte) : Int := b.toInt

/-- `u8(v)` of a natural number (R11). -/
def u8 (v : Nat) : Byte := BitVec.ofNat 8 v

/-- A flag as the bit 0 of a byte (R12: true = 1). -/
def bitByte (c : Bool) : Byte := if c then 1 else 0

end Sys2Proof.Machine
end

