-- ==== Sys2Proof/Config.lean ====
section
/-! DEFINITION. The named parameters of 00_scope.md R9: the ones the spec fixes are constants, the open ones are
the fields of `Config`, which `State` carries so that every statement is about every value of them (log 8). -/

namespace Sys2Proof

/-- FRAME_IRQ: whether a frame boundary raises the System VIA's CA1 interrupt (R9; 60_exceptions.md R294). -/
inductive FrameIrq where
  | noIrq
  | systemViaCa1
deriving DecidableEq, Repr

/-- The open parameters of R9, fixed for a run. -/
structure Config where
  /-- STRICT_IGNORED: an access to an ignored window faults (20_memory.md R66). -/
  strictIgnored : Bool
  /-- DETECT_SELF_LOOP: any instruction that leaves PC unchanged faults (60_exceptions.md R242). -/
  detectSelfLoop : Bool
  /-- FRAME_IRQ. -/
  frameIrq : FrameIrq
  /-- DEFAULT_BATCH_CYCLES, a natural number at least 1: the budget when no timer bounds the batch (R260). -/
  defaultBatchCycles : Nat
deriving DecidableEq, Repr

namespace Config

/-- The parameters of `State.reset`. The first two are the defaults of R9.
DESIGN CHOICE (log 8): R9 leaves FRAME_IRQ and DEFAULT_BATCH_CYCLES open. -/
def default : Config :=
  { strictIgnored := false, detectSelfLoop := false, frameIrq := .noIrq, defaultBatchCycles := 1 }

/-- CLOCK_RATIO: CPU cycles for one system tick (R9). -/
def clockRatio : Nat := 2

/-- FRAME_PERIOD, in system ticks (R9). -/
def framePeriod : Nat := 20000

/-- INITIAL_BANK (R9; 10_state.md R52). -/
def initialBank : Byte := 0x0F

/-- EXTRA_IGNORED_WINDOWS, as (first, last) address pairs: empty for this hardware (R9). -/
def extraIgnoredWindows : List (Nat × Nat) := []

/-- interruptVectorLow/breakLocation: the low byte of the IRQ/BRK vector (10_state.md R40). -/
def breakLocation : Addr := 0xFFFE

/-- The low byte of the NMI vector (60_exceptions.md R255). -/
def nmiVector : Addr := 0xFFFA

/-- The low byte of the reset vector (70_reset_and_hazards.md R330). -/
def resetVector : Addr := 0xFFFC

end Config

end Sys2Proof
end

