-- ==== Sys2Proof/Syntax.lean ====
section
/-! DEFINITION. The instruction syntax: one constructor of `Instr` per row of spec/opcode_table.json
(30_encoding.md R118). A constructor's name is the mnemonic and the short mode name of R120's map; its argument is
the row's operand field, whole (R101, R122). -/

namespace Sys2Proof

/-- The eleven addressing-mode tags (00_scope.md R15), each with the operand field its instruction bytes hold (R101). -/
inductive AddrMode where
  | implied
  | immediate (imm8 : Byte)
  | zeroPage (zp8 : Byte)
  | zeroPageX (zp8 : Byte)
  | zeroPageY (zp8 : Byte)
  | absolute (addr16 : Addr)
  | absoluteX (addr16 : Addr)
  | absoluteY (addr16 : Addr)
  | indirect (ptr16 : Addr)
  | indexedIndirect (zp8 : Byte)
  | indirectIndexed (zp8 : Byte)
deriving DecidableEq, Repr

/-- The 56 mnemonics (00_scope.md R2). -/
inductive Mnemonic where
  | lda | ldx | ldy | sta | stx | sty | tax | tay
  | txa | tya | tsx | txs | adc | sbc | and | ora
  | eor | cmp | cpx | cpy | bit | inc | dec | inx
  | iny | dex | dey | asl | lsr | rol | ror | bcc
  | bcs | beq | bne | bmi | bpl | bvc | bvs | jmp
  | jsr | rts | pha | php | pla | plp | clc | sec
  | cli | sei | cld | sed | clv | nop | brk | rti
deriving DecidableEq, Repr

/-- The 151 instructions, in the order of the rules that give their meaning. -/
inductive Instr where
  -- R131 LDA
  | ldaIzx (zp8 : Byte)
  | ldaZp (zp8 : Byte)
  | ldaImm (imm8 : Byte)
  | ldaAbs (addr16 : Addr)
  | ldaIzy (zp8 : Byte)
  | ldaZpx (zp8 : Byte)
  | ldaAby (addr16 : Addr)
  | ldaAbx (addr16 : Addr)
  -- R132 LDX
  | ldxImm (imm8 : Byte)
  | ldxZp (zp8 : Byte)
  | ldxAbs (addr16 : Addr)
  | ldxZpy (zp8 : Byte)
  | ldxAby (addr16 : Addr)
  -- R133 LDY
  | ldyImm (imm8 : Byte)
  | ldyZp (zp8 : Byte)
  | ldyAbs (addr16 : Addr)
  | ldyZpx (zp8 : Byte)
  | ldyAbx (addr16 : Addr)
  -- R134 STA
  | staIzx (zp8 : Byte)
  | staZp (zp8 : Byte)
  | staAbs (addr16 : Addr)
  | staIzy (zp8 : Byte)
  | staZpx (zp8 : Byte)
  | staAby (addr16 : Addr)
  | staAbx (addr16 : Addr)
  -- R135 STX
  | stxZp (zp8 : Byte)
  | stxAbs (addr16 : Addr)
  | stxZpy (zp8 : Byte)
  -- R136 STY
  | styZp (zp8 : Byte)
  | styAbs (addr16 : Addr)
  | styZpx (zp8 : Byte)
  -- R137 TAX
  | tax
  -- R138 TAY
  | tay
  -- R139 TXA
  | txa
  -- R140 TYA
  | tya
  -- R141 TSX
  | tsx
  -- R142 TXS
  | txs
  -- R151 ADC
  | adcIzx (zp8 : Byte)
  | adcZp (zp8 : Byte)
  | adcImm (imm8 : Byte)
  | adcAbs (addr16 : Addr)
  | adcIzy (zp8 : Byte)
  | adcZpx (zp8 : Byte)
  | adcAby (addr16 : Addr)
  | adcAbx (addr16 : Addr)
  -- R153 SBC
  | sbcIzx (zp8 : Byte)
  | sbcZp (zp8 : Byte)
  | sbcImm (imm8 : Byte)
  | sbcAbs (addr16 : Addr)
  | sbcIzy (zp8 : Byte)
  | sbcZpx (zp8 : Byte)
  | sbcAby (addr16 : Addr)
  | sbcAbx (addr16 : Addr)
  -- R155 AND
  | andIzx (zp8 : Byte)
  | andZp (zp8 : Byte)
  | andImm (imm8 : Byte)
  | andAbs (addr16 : Addr)
  | andIzy (zp8 : Byte)
  | andZpx (zp8 : Byte)
  | andAby (addr16 : Addr)
  | andAbx (addr16 : Addr)
  -- R156 ORA
  | oraIzx (zp8 : Byte)
  | oraZp (zp8 : Byte)
  | oraImm (imm8 : Byte)
  | oraAbs (addr16 : Addr)
  | oraIzy (zp8 : Byte)
  | oraZpx (zp8 : Byte)
  | oraAby (addr16 : Addr)
  | oraAbx (addr16 : Addr)
  -- R157 EOR
  | eorIzx (zp8 : Byte)
  | eorZp (zp8 : Byte)
  | eorImm (imm8 : Byte)
  | eorAbs (addr16 : Addr)
  | eorIzy (zp8 : Byte)
  | eorZpx (zp8 : Byte)
  | eorAby (addr16 : Addr)
  | eorAbx (addr16 : Addr)
  -- R159 CMP
  | cmpIzx (zp8 : Byte)
  | cmpZp (zp8 : Byte)
  | cmpImm (imm8 : Byte)
  | cmpAbs (addr16 : Addr)
  | cmpIzy (zp8 : Byte)
  | cmpZpx (zp8 : Byte)
  | cmpAby (addr16 : Addr)
  | cmpAbx (addr16 : Addr)
  -- R160 CPX
  | cpxImm (imm8 : Byte)
  | cpxZp (zp8 : Byte)
  | cpxAbs (addr16 : Addr)
  -- R161 CPY
  | cpyImm (imm8 : Byte)
  | cpyZp (zp8 : Byte)
  | cpyAbs (addr16 : Addr)
  -- R162 BIT
  | bitZp (zp8 : Byte)
  | bitAbs (addr16 : Addr)
  -- R163 INC
  | incZp (zp8 : Byte)
  | incAbs (addr16 : Addr)
  | incZpx (zp8 : Byte)
  | incAbx (addr16 : Addr)
  -- R164 DEC
  | decZp (zp8 : Byte)
  | decAbs (addr16 : Addr)
  | decZpx (zp8 : Byte)
  | decAbx (addr16 : Addr)
  -- R165 INX
  | inx
  -- R166 INY
  | iny
  -- R167 DEX
  | dex
  -- R168 DEY
  | dey
  -- R181 ASL
  | aslZp (zp8 : Byte)
  | aslAcc
  | aslAbs (addr16 : Addr)
  | aslZpx (zp8 : Byte)
  | aslAbx (addr16 : Addr)
  -- R182 LSR
  | lsrZp (zp8 : Byte)
  | lsrAcc
  | lsrAbs (addr16 : Addr)
  | lsrZpx (zp8 : Byte)
  | lsrAbx (addr16 : Addr)
  -- R183 ROL
  | rolZp (zp8 : Byte)
  | rolAcc
  | rolAbs (addr16 : Addr)
  | rolZpx (zp8 : Byte)
  | rolAbx (addr16 : Addr)
  -- R184 ROR
  | rorZp (zp8 : Byte)
  | rorAcc
  | rorAbs (addr16 : Addr)
  | rorZpx (zp8 : Byte)
  | rorAbx (addr16 : Addr)
  -- R191 BCC
  | bccRel (off8 : Byte)
  -- R192 BCS
  | bcsRel (off8 : Byte)
  -- R193 BEQ
  | beqRel (off8 : Byte)
  -- R194 BNE
  | bneRel (off8 : Byte)
  -- R195 BMI
  | bmiRel (off8 : Byte)
  -- R196 BPL
  | bplRel (off8 : Byte)
  -- R197 BVC
  | bvcRel (off8 : Byte)
  -- R198 BVS
  | bvsRel (off8 : Byte)
  -- R199 JMP
  | jmpAbs (addr16 : Addr)
  | jmpInd (ptr16 : Addr)
  -- R200 JSR
  | jsrAbs (addr16 : Addr)
  -- R201 RTS
  | rts
  -- R210 PHA
  | pha
  -- R211 PHP
  | php
  -- R212 PLA
  | pla
  -- R213 PLP
  | plp
  -- R214 CLC
  | clc
  -- R215 SEC
  | sec
  -- R216 CLI
  | cli
  -- R217 SEI
  | sei
  -- R218 CLD
  | cld
  -- R219 SED
  | sed
  -- R220 CLV
  | clv
  -- R221 NOP
  | nop
  -- R222 BRK
  | brk
  -- R223 RTI
  | rti
deriving DecidableEq, Repr

end Sys2Proof
end

