-- ==== Sys2Proof/WellFormed.lean ====
section
/-! DEFINITION. Well-formedness: of an instruction, of an instruction's byte string, of the parameters and of the
launch images. -/

namespace Sys2Proof

/-- Every term of `Instr` is well formed: an operand field has the width of its bytes by its type, every operand
byte is used whole and no operand value is reserved (30_encoding.md R122). -/
def Instr.wellFormed (_ : Instr) : Bool := true

/-- DEFAULT_BATCH_CYCLES is a natural number at least 1 (00_scope.md R9). -/
def Config.wellFormed (cfg : Config) : Bool := decide (1 ≤ cfg.defaultBatchCycles)

/-- A launch image of `size` bytes: any other size is refused (70_reset_and_hazards.md R335). -/
def imageWellFormed (size : Nat) (image : List Byte) : Bool := image.length == size

/-- A bank map's keys are 8-bit and no key has two images (00_scope.md R9: a finite map). -/
def bankKeysWellFormed {α : Type} : List (Byte × α) → Bool
  | [] => true
  | (k, _) :: rest => !(rest.any fun e => e.1 == k) && bankKeysWellFormed rest

end Sys2Proof
end

