-- ==== Sys2Proof/Decode.lean ====
section
/-! DEFINITION. The opcode table of 30_encoding.md R118 as functions of the instruction (mnemonic, mode tag, opcode,
base cycles), the decoder, total over all byte strings, and the encoder. -/

namespace Sys2Proof

open Sys2Proof.Machine (addrOfBytes loByte hiByte)

/-- The mnemonic column of R118. -/
def Instr.mnemonic : Instr → Mnemonic
  | .ldaIzx _ => .lda
  | .ldaZp _ => .lda
  | .ldaImm _ => .lda
  | .ldaAbs _ => .lda
  | .ldaIzy _ => .lda
  | .ldaZpx _ => .lda
  | .ldaAby _ => .lda
  | .ldaAbx _ => .lda
  | .ldxImm _ => .ldx
  | .ldxZp _ => .ldx
  | .ldxAbs _ => .ldx
  | .ldxZpy _ => .ldx
  | .ldxAby _ => .ldx
  | .ldyImm _ => .ldy
  | .ldyZp _ => .ldy
  | .ldyAbs _ => .ldy
  | .ldyZpx _ => .ldy
  | .ldyAbx _ => .ldy
  | .staIzx _ => .sta
  | .staZp _ => .sta
  | .staAbs _ => .sta
  | .staIzy _ => .sta
  | .staZpx _ => .sta
  | .staAby _ => .sta
  | .staAbx _ => .sta
  | .stxZp _ => .stx
  | .stxAbs _ => .stx
  | .stxZpy _ => .stx
  | .styZp _ => .sty
  | .styAbs _ => .sty
  | .styZpx _ => .sty
  | .tax => .tax
  | .tay => .tay
  | .txa => .txa
  | .tya => .tya
  | .tsx => .tsx
  | .txs => .txs
  | .adcIzx _ => .adc
  | .adcZp _ => .adc
  | .adcImm _ => .adc
  | .adcAbs _ => .adc
  | .adcIzy _ => .adc
  | .adcZpx _ => .adc
  | .adcAby _ => .adc
  | .adcAbx _ => .adc
  | .sbcIzx _ => .sbc
  | .sbcZp _ => .sbc
  | .sbcImm _ => .sbc
  | .sbcAbs _ => .sbc
  | .sbcIzy _ => .sbc
  | .sbcZpx _ => .sbc
  | .sbcAby _ => .sbc
  | .sbcAbx _ => .sbc
  | .andIzx _ => .and
  | .andZp _ => .and
  | .andImm _ => .and
  | .andAbs _ => .and
  | .andIzy _ => .and
  | .andZpx _ => .and
  | .andAby _ => .and
  | .andAbx _ => .and
  | .oraIzx _ => .ora
  | .oraZp _ => .ora
  | .oraImm _ => .ora
  | .oraAbs _ => .ora
  | .oraIzy _ => .ora
  | .oraZpx _ => .ora
  | .oraAby _ => .ora
  | .oraAbx _ => .ora
  | .eorIzx _ => .eor
  | .eorZp _ => .eor
  | .eorImm _ => .eor
  | .eorAbs _ => .eor
  | .eorIzy _ => .eor
  | .eorZpx _ => .eor
  | .eorAby _ => .eor
  | .eorAbx _ => .eor
  | .cmpIzx _ => .cmp
  | .cmpZp _ => .cmp
  | .cmpImm _ => .cmp
  | .cmpAbs _ => .cmp
  | .cmpIzy _ => .cmp
  | .cmpZpx _ => .cmp
  | .cmpAby _ => .cmp
  | .cmpAbx _ => .cmp
  | .cpxImm _ => .cpx
  | .cpxZp _ => .cpx
  | .cpxAbs _ => .cpx
  | .cpyImm _ => .cpy
  | .cpyZp _ => .cpy
  | .cpyAbs _ => .cpy
  | .bitZp _ => .bit
  | .bitAbs _ => .bit
  | .incZp _ => .inc
  | .incAbs _ => .inc
  | .incZpx _ => .inc
  | .incAbx _ => .inc
  | .decZp _ => .dec
  | .decAbs _ => .dec
  | .decZpx _ => .dec
  | .decAbx _ => .dec
  | .inx => .inx
  | .iny => .iny
  | .dex => .dex
  | .dey => .dey
  | .aslZp _ => .asl
  | .aslAcc => .asl
  | .aslAbs _ => .asl
  | .aslZpx _ => .asl
  | .aslAbx _ => .asl
  | .lsrZp _ => .lsr
  | .lsrAcc => .lsr
  | .lsrAbs _ => .lsr
  | .lsrZpx _ => .lsr
  | .lsrAbx _ => .lsr
  | .rolZp _ => .rol
  | .rolAcc => .rol
  | .rolAbs _ => .rol
  | .rolZpx _ => .rol
  | .rolAbx _ => .rol
  | .rorZp _ => .ror
  | .rorAcc => .ror
  | .rorAbs _ => .ror
  | .rorZpx _ => .ror
  | .rorAbx _ => .ror
  | .bccRel _ => .bcc
  | .bcsRel _ => .bcs
  | .beqRel _ => .beq
  | .bneRel _ => .bne
  | .bmiRel _ => .bmi
  | .bplRel _ => .bpl
  | .bvcRel _ => .bvc
  | .bvsRel _ => .bvs
  | .jmpAbs _ => .jmp
  | .jmpInd _ => .jmp
  | .jsrAbs _ => .jsr
  | .rts => .rts
  | .pha => .pha
  | .php => .php
  | .pla => .pla
  | .plp => .plp
  | .clc => .clc
  | .sec => .sec
  | .cli => .cli
  | .sei => .sei
  | .cld => .cld
  | .sed => .sed
  | .clv => .clv
  | .nop => .nop
  | .brk => .brk
  | .rti => .rti

/-- The mode-tag column of R118, with the instruction's operand field. Accumulator forms carry the Implied tag and
branches the Immediate tag (R103). -/
def Instr.mode : Instr → AddrMode
  | .ldaIzx zp8 => .indexedIndirect zp8
  | .ldaZp zp8 => .zeroPage zp8
  | .ldaImm imm8 => .immediate imm8
  | .ldaAbs addr16 => .absolute addr16
  | .ldaIzy zp8 => .indirectIndexed zp8
  | .ldaZpx zp8 => .zeroPageX zp8
  | .ldaAby addr16 => .absoluteY addr16
  | .ldaAbx addr16 => .absoluteX addr16
  | .ldxImm imm8 => .immediate imm8
  | .ldxZp zp8 => .zeroPage zp8
  | .ldxAbs addr16 => .absolute addr16
  | .ldxZpy zp8 => .zeroPageY zp8
  | .ldxAby addr16 => .absoluteY addr16
  | .ldyImm imm8 => .immediate imm8
  | .ldyZp zp8 => .zeroPage zp8
  | .ldyAbs addr16 => .absolute addr16
  | .ldyZpx zp8 => .zeroPageX zp8
  | .ldyAbx addr16 => .absoluteX addr16
  | .staIzx zp8 => .indexedIndirect zp8
  | .staZp zp8 => .zeroPage zp8
  | .staAbs addr16 => .absolute addr16
  | .staIzy zp8 => .indirectIndexed zp8
  | .staZpx zp8 => .zeroPageX zp8
  | .staAby addr16 => .absoluteY addr16
  | .staAbx addr16 => .absoluteX addr16
  | .stxZp zp8 => .zeroPage zp8
  | .stxAbs addr16 => .absolute addr16
  | .stxZpy zp8 => .zeroPageY zp8
  | .styZp zp8 => .zeroPage zp8
  | .styAbs addr16 => .absolute addr16
  | .styZpx zp8 => .zeroPageX zp8
  | .tax => .implied
  | .tay => .implied
  | .txa => .implied
  | .tya => .implied
  | .tsx => .implied
  | .txs => .implied
  | .adcIzx zp8 => .indexedIndirect zp8
  | .adcZp zp8 => .zeroPage zp8
  | .adcImm imm8 => .immediate imm8
  | .adcAbs addr16 => .absolute addr16
  | .adcIzy zp8 => .indirectIndexed zp8
  | .adcZpx zp8 => .zeroPageX zp8
  | .adcAby addr16 => .absoluteY addr16
  | .adcAbx addr16 => .absoluteX addr16
  | .sbcIzx zp8 => .indexedIndirect zp8
  | .sbcZp zp8 => .zeroPage zp8
  | .sbcImm imm8 => .immediate imm8
  | .sbcAbs addr16 => .absolute addr16
  | .sbcIzy zp8 => .indirectIndexed zp8
  | .sbcZpx zp8 => .zeroPageX zp8
  | .sbcAby addr16 => .absoluteY addr16
  | .sbcAbx addr16 => .absoluteX addr16
  | .andIzx zp8 => .indexedIndirect zp8
  | .andZp zp8 => .zeroPage zp8
  | .andImm imm8 => .immediate imm8
  | .andAbs addr16 => .absolute addr16
  | .andIzy zp8 => .indirectIndexed zp8
  | .andZpx zp8 => .zeroPageX zp8
  | .andAby addr16 => .absoluteY addr16
  | .andAbx addr16 => .absoluteX addr16
  | .oraIzx zp8 => .indexedIndirect zp8
  | .oraZp zp8 => .zeroPage zp8
  | .oraImm imm8 => .immediate imm8
  | .oraAbs addr16 => .absolute addr16
  | .oraIzy zp8 => .indirectIndexed zp8
  | .oraZpx zp8 => .zeroPageX zp8
  | .oraAby addr16 => .absoluteY addr16
  | .oraAbx addr16 => .absoluteX addr16
  | .eorIzx zp8 => .indexedIndirect zp8
  | .eorZp zp8 => .zeroPage zp8
  | .eorImm imm8 => .immediate imm8
  | .eorAbs addr16 => .absolute addr16
  | .eorIzy zp8 => .indirectIndexed zp8
  | .eorZpx zp8 => .zeroPageX zp8
  | .eorAby addr16 => .absoluteY addr16
  | .eorAbx addr16 => .absoluteX addr16
  | .cmpIzx zp8 => .indexedIndirect zp8
  | .cmpZp zp8 => .zeroPage zp8
  | .cmpImm imm8 => .immediate imm8
  | .cmpAbs addr16 => .absolute addr16
  | .cmpIzy zp8 => .indirectIndexed zp8
  | .cmpZpx zp8 => .zeroPageX zp8
  | .cmpAby addr16 => .absoluteY addr16
  | .cmpAbx addr16 => .absoluteX addr16
  | .cpxImm imm8 => .immediate imm8
  | .cpxZp zp8 => .zeroPage zp8
  | .cpxAbs addr16 => .absolute addr16
  | .cpyImm imm8 => .immediate imm8
  | .cpyZp zp8 => .zeroPage zp8
  | .cpyAbs addr16 => .absolute addr16
  | .bitZp zp8 => .zeroPage zp8
  | .bitAbs addr16 => .absolute addr16
  | .incZp zp8 => .zeroPage zp8
  | .incAbs addr16 => .absolute addr16
  | .incZpx zp8 => .zeroPageX zp8
  | .incAbx addr16 => .absoluteX addr16
  | .decZp zp8 => .zeroPage zp8
  | .decAbs addr16 => .absolute addr16
  | .decZpx zp8 => .zeroPageX zp8
  | .decAbx addr16 => .absoluteX addr16
  | .inx => .implied
  | .iny => .implied
  | .dex => .implied
  | .dey => .implied
  | .aslZp zp8 => .zeroPage zp8
  | .aslAcc => .implied
  | .aslAbs addr16 => .absolute addr16
  | .aslZpx zp8 => .zeroPageX zp8
  | .aslAbx addr16 => .absoluteX addr16
  | .lsrZp zp8 => .zeroPage zp8
  | .lsrAcc => .implied
  | .lsrAbs addr16 => .absolute addr16
  | .lsrZpx zp8 => .zeroPageX zp8
  | .lsrAbx addr16 => .absoluteX addr16
  | .rolZp zp8 => .zeroPage zp8
  | .rolAcc => .implied
  | .rolAbs addr16 => .absolute addr16
  | .rolZpx zp8 => .zeroPageX zp8
  | .rolAbx addr16 => .absoluteX addr16
  | .rorZp zp8 => .zeroPage zp8
  | .rorAcc => .implied
  | .rorAbs addr16 => .absolute addr16
  | .rorZpx zp8 => .zeroPageX zp8
  | .rorAbx addr16 => .absoluteX addr16
  | .bccRel off8 => .immediate off8
  | .bcsRel off8 => .immediate off8
  | .beqRel off8 => .immediate off8
  | .bneRel off8 => .immediate off8
  | .bmiRel off8 => .immediate off8
  | .bplRel off8 => .immediate off8
  | .bvcRel off8 => .immediate off8
  | .bvsRel off8 => .immediate off8
  | .jmpAbs addr16 => .absolute addr16
  | .jmpInd ptr16 => .indirect ptr16
  | .jsrAbs addr16 => .absolute addr16
  | .rts => .implied
  | .pha => .implied
  | .php => .implied
  | .pla => .implied
  | .plp => .implied
  | .clc => .implied
  | .sec => .implied
  | .cli => .implied
  | .sei => .implied
  | .cld => .implied
  | .sed => .implied
  | .clv => .implied
  | .nop => .implied
  | .brk => .implied
  | .rti => .implied

/-- The opcode column of R118. -/
def Instr.opcode : Instr → Byte
  | .ldaIzx _ => 0xA1
  | .ldaZp _ => 0xA5
  | .ldaImm _ => 0xA9
  | .ldaAbs _ => 0xAD
  | .ldaIzy _ => 0xB1
  | .ldaZpx _ => 0xB5
  | .ldaAby _ => 0xB9
  | .ldaAbx _ => 0xBD
  | .ldxImm _ => 0xA2
  | .ldxZp _ => 0xA6
  | .ldxAbs _ => 0xAE
  | .ldxZpy _ => 0xB6
  | .ldxAby _ => 0xBE
  | .ldyImm _ => 0xA0
  | .ldyZp _ => 0xA4
  | .ldyAbs _ => 0xAC
  | .ldyZpx _ => 0xB4
  | .ldyAbx _ => 0xBC
  | .staIzx _ => 0x81
  | .staZp _ => 0x85
  | .staAbs _ => 0x8D
  | .staIzy _ => 0x91
  | .staZpx _ => 0x95
  | .staAby _ => 0x99
  | .staAbx _ => 0x9D
  | .stxZp _ => 0x86
  | .stxAbs _ => 0x8E
  | .stxZpy _ => 0x96
  | .styZp _ => 0x84
  | .styAbs _ => 0x8C
  | .styZpx _ => 0x94
  | .tax => 0xAA
  | .tay => 0xA8
  | .txa => 0x8A
  | .tya => 0x98
  | .tsx => 0xBA
  | .txs => 0x9A
  | .adcIzx _ => 0x61
  | .adcZp _ => 0x65
  | .adcImm _ => 0x69
  | .adcAbs _ => 0x6D
  | .adcIzy _ => 0x71
  | .adcZpx _ => 0x75
  | .adcAby _ => 0x79
  | .adcAbx _ => 0x7D
  | .sbcIzx _ => 0xE1
  | .sbcZp _ => 0xE5
  | .sbcImm _ => 0xE9
  | .sbcAbs _ => 0xED
  | .sbcIzy _ => 0xF1
  | .sbcZpx _ => 0xF5
  | .sbcAby _ => 0xF9
  | .sbcAbx _ => 0xFD
  | .andIzx _ => 0x21
  | .andZp _ => 0x25
  | .andImm _ => 0x29
  | .andAbs _ => 0x2D
  | .andIzy _ => 0x31
  | .andZpx _ => 0x35
  | .andAby _ => 0x39
  | .andAbx _ => 0x3D
  | .oraIzx _ => 0x01
  | .oraZp _ => 0x05
  | .oraImm _ => 0x09
  | .oraAbs _ => 0x0D
  | .oraIzy _ => 0x11
  | .oraZpx _ => 0x15
  | .oraAby _ => 0x19
  | .oraAbx _ => 0x1D
  | .eorIzx _ => 0x41
  | .eorZp _ => 0x45
  | .eorImm _ => 0x49
  | .eorAbs _ => 0x4D
  | .eorIzy _ => 0x51
  | .eorZpx _ => 0x55
  | .eorAby _ => 0x59
  | .eorAbx _ => 0x5D
  | .cmpIzx _ => 0xC1
  | .cmpZp _ => 0xC5
  | .cmpImm _ => 0xC9
  | .cmpAbs _ => 0xCD
  | .cmpIzy _ => 0xD1
  | .cmpZpx _ => 0xD5
  | .cmpAby _ => 0xD9
  | .cmpAbx _ => 0xDD
  | .cpxImm _ => 0xE0
  | .cpxZp _ => 0xE4
  | .cpxAbs _ => 0xEC
  | .cpyImm _ => 0xC0
  | .cpyZp _ => 0xC4
  | .cpyAbs _ => 0xCC
  | .bitZp _ => 0x24
  | .bitAbs _ => 0x2C
  | .incZp _ => 0xE6
  | .incAbs _ => 0xEE
  | .incZpx _ => 0xF6
  | .incAbx _ => 0xFE
  | .decZp _ => 0xC6
  | .decAbs _ => 0xCE
  | .decZpx _ => 0xD6
  | .decAbx _ => 0xDE
  | .inx => 0xE8
  | .iny => 0xC8
  | .dex => 0xCA
  | .dey => 0x88
  | .aslZp _ => 0x06
  | .aslAcc => 0x0A
  | .aslAbs _ => 0x0E
  | .aslZpx _ => 0x16
  | .aslAbx _ => 0x1E
  | .lsrZp _ => 0x46
  | .lsrAcc => 0x4A
  | .lsrAbs _ => 0x4E
  | .lsrZpx _ => 0x56
  | .lsrAbx _ => 0x5E
  | .rolZp _ => 0x26
  | .rolAcc => 0x2A
  | .rolAbs _ => 0x2E
  | .rolZpx _ => 0x36
  | .rolAbx _ => 0x3E
  | .rorZp _ => 0x66
  | .rorAcc => 0x6A
  | .rorAbs _ => 0x6E
  | .rorZpx _ => 0x76
  | .rorAbx _ => 0x7E
  | .bccRel _ => 0x90
  | .bcsRel _ => 0xB0
  | .beqRel _ => 0xF0
  | .bneRel _ => 0xD0
  | .bmiRel _ => 0x30
  | .bplRel _ => 0x10
  | .bvcRel _ => 0x50
  | .bvsRel _ => 0x70
  | .jmpAbs _ => 0x4C
  | .jmpInd _ => 0x6C
  | .jsrAbs _ => 0x20
  | .rts => 0x60
  | .pha => 0x48
  | .php => 0x08
  | .pla => 0x68
  | .plp => 0x28
  | .clc => 0x18
  | .sec => 0x38
  | .cli => 0x58
  | .sei => 0x78
  | .cld => 0xD8
  | .sed => 0xF8
  | .clv => 0xB8
  | .nop => 0xEA
  | .brk => 0x00
  | .rti => 0x40

/-- The base-cycles column of R118 (R119). -/
def Instr.baseCycles : Instr → Nat
  | .ldaIzx _ => 6
  | .ldaZp _ => 3
  | .ldaImm _ => 2
  | .ldaAbs _ => 4
  | .ldaIzy _ => 5
  | .ldaZpx _ => 4
  | .ldaAby _ => 4
  | .ldaAbx _ => 4
  | .ldxImm _ => 2
  | .ldxZp _ => 3
  | .ldxAbs _ => 4
  | .ldxZpy _ => 4
  | .ldxAby _ => 4
  | .ldyImm _ => 2
  | .ldyZp _ => 3
  | .ldyAbs _ => 4
  | .ldyZpx _ => 4
  | .ldyAbx _ => 4
  | .staIzx _ => 6
  | .staZp _ => 3
  | .staAbs _ => 4
  | .staIzy _ => 6
  | .staZpx _ => 4
  | .staAby _ => 5
  | .staAbx _ => 5
  | .stxZp _ => 3
  | .stxAbs _ => 4
  | .stxZpy _ => 4
  | .styZp _ => 3
  | .styAbs _ => 4
  | .styZpx _ => 4
  | .tax => 2
  | .tay => 2
  | .txa => 2
  | .tya => 2
  | .tsx => 2
  | .txs => 2
  | .adcIzx _ => 6
  | .adcZp _ => 3
  | .adcImm _ => 2
  | .adcAbs _ => 4
  | .adcIzy _ => 5
  | .adcZpx _ => 4
  | .adcAby _ => 4
  | .adcAbx _ => 4
  | .sbcIzx _ => 6
  | .sbcZp _ => 3
  | .sbcImm _ => 2
  | .sbcAbs _ => 4
  | .sbcIzy _ => 5
  | .sbcZpx _ => 4
  | .sbcAby _ => 4
  | .sbcAbx _ => 4
  | .andIzx _ => 6
  | .andZp _ => 3
  | .andImm _ => 2
  | .andAbs _ => 4
  | .andIzy _ => 5
  | .andZpx _ => 4
  | .andAby _ => 4
  | .andAbx _ => 4
  | .oraIzx _ => 6
  | .oraZp _ => 3
  | .oraImm _ => 2
  | .oraAbs _ => 4
  | .oraIzy _ => 5
  | .oraZpx _ => 4
  | .oraAby _ => 4
  | .oraAbx _ => 4
  | .eorIzx _ => 6
  | .eorZp _ => 3
  | .eorImm _ => 2
  | .eorAbs _ => 4
  | .eorIzy _ => 5
  | .eorZpx _ => 4
  | .eorAby _ => 4
  | .eorAbx _ => 4
  | .cmpIzx _ => 6
  | .cmpZp _ => 3
  | .cmpImm _ => 2
  | .cmpAbs _ => 4
  | .cmpIzy _ => 5
  | .cmpZpx _ => 4
  | .cmpAby _ => 4
  | .cmpAbx _ => 4
  | .cpxImm _ => 2
  | .cpxZp _ => 3
  | .cpxAbs _ => 4
  | .cpyImm _ => 2
  | .cpyZp _ => 3
  | .cpyAbs _ => 4
  | .bitZp _ => 3
  | .bitAbs _ => 4
  | .incZp _ => 5
  | .incAbs _ => 6
  | .incZpx _ => 6
  | .incAbx _ => 7
  | .decZp _ => 5
  | .decAbs _ => 6
  | .decZpx _ => 6
  | .decAbx _ => 7
  | .inx => 2
  | .iny => 2
  | .dex => 2
  | .dey => 2
  | .aslZp _ => 5
  | .aslAcc => 2
  | .aslAbs _ => 6
  | .aslZpx _ => 6
  | .aslAbx _ => 7
  | .lsrZp _ => 5
  | .lsrAcc => 2
  | .lsrAbs _ => 6
  | .lsrZpx _ => 6
  | .lsrAbx _ => 7
  | .rolZp _ => 5
  | .rolAcc => 2
  | .rolAbs _ => 6
  | .rolZpx _ => 6
  | .rolAbx _ => 7
  | .rorZp _ => 5
  | .rorAcc => 2
  | .rorAbs _ => 6
  | .rorZpx _ => 6
  | .rorAbx _ => 7
  | .bccRel _ => 2
  | .bcsRel _ => 2
  | .beqRel _ => 2
  | .bneRel _ => 2
  | .bmiRel _ => 2
  | .bplRel _ => 2
  | .bvcRel _ => 2
  | .bvsRel _ => 2
  | .jmpAbs _ => 3
  | .jmpInd _ => 5
  | .jsrAbs _ => 6
  | .rts => 6
  | .pha => 3
  | .php => 3
  | .pla => 4
  | .plp => 4
  | .clc => 2
  | .sec => 2
  | .cli => 2
  | .sei => 2
  | .cld => 2
  | .sed => 2
  | .clv => 2
  | .nop => 2
  | .brk => 7
  | .rti => 6

/-- The operand bytes of a mode, in instruction order: a 16-bit field is stored low byte first (R101, R109). -/
def AddrMode.operandBytes : AddrMode → List Byte
  | .implied => []
  | .immediate b | .zeroPage b | .zeroPageX b | .zeroPageY b | .indexedIndirect b | .indirectIndexed b => [b]
  | .absolute a | .absoluteX a | .absoluteY a | .indirect a => [loByte a, hiByte a]

/-- The instruction length of a mode tag (R101). -/
def AddrMode.length : AddrMode → Nat
  | .implied => 1
  | .immediate _ | .zeroPage _ | .zeroPageX _ | .zeroPageY _ | .indexedIndirect _ | .indirectIndexed _ => 2
  | .absolute _ | .absoluteX _ | .absoluteY _ | .indirect _ => 3

/-- The length column of R118, fixed by the mode tag (R101). -/
def Instr.length (i : Instr) : Nat := i.mode.length

/-- The control-flow instructions of 60_exceptions.md R242: a conditional branch, JMP, JSR, RTS, RTI or BRK. -/
def Mnemonic.isControlFlow : Mnemonic → Bool
  | .bcc | .bcs | .beq | .bne | .bmi | .bpl | .bvc | .bvs | .jmp | .jsr | .rts | .rti | .brk => true
  | _ => false

/-- Whether the instruction's mnemonic is one of R242's control-flow instructions. -/
def Instr.isControlFlow (i : Instr) : Bool := i.mnemonic.isControlFlow

/-- The table entry of an opcode byte (R102, R118), with the operand bytes `b1` and `b2` where its mode has them;
`none` for the 105 illegal opcodes (R121). -/
def decodeOpcode (op b1 b2 : Byte) : Option Instr :=
  match op.toNat with
  | 0x00 => some .brk
  | 0x01 => some (.oraIzx b1)
  | 0x05 => some (.oraZp b1)
  | 0x06 => some (.aslZp b1)
  | 0x08 => some .php
  | 0x09 => some (.oraImm b1)
  | 0x0A => some .aslAcc
  | 0x0D => some (.oraAbs (addrOfBytes b1 b2))
  | 0x0E => some (.aslAbs (addrOfBytes b1 b2))
  | 0x10 => some (.bplRel b1)
  | 0x11 => some (.oraIzy b1)
  | 0x15 => some (.oraZpx b1)
  | 0x16 => some (.aslZpx b1)
  | 0x18 => some .clc
  | 0x19 => some (.oraAby (addrOfBytes b1 b2))
  | 0x1D => some (.oraAbx (addrOfBytes b1 b2))
  | 0x1E => some (.aslAbx (addrOfBytes b1 b2))
  | 0x20 => some (.jsrAbs (addrOfBytes b1 b2))
  | 0x21 => some (.andIzx b1)
  | 0x24 => some (.bitZp b1)
  | 0x25 => some (.andZp b1)
  | 0x26 => some (.rolZp b1)
  | 0x28 => some .plp
  | 0x29 => some (.andImm b1)
  | 0x2A => some .rolAcc
  | 0x2C => some (.bitAbs (addrOfBytes b1 b2))
  | 0x2D => some (.andAbs (addrOfBytes b1 b2))
  | 0x2E => some (.rolAbs (addrOfBytes b1 b2))
  | 0x30 => some (.bmiRel b1)
  | 0x31 => some (.andIzy b1)
  | 0x35 => some (.andZpx b1)
  | 0x36 => some (.rolZpx b1)
  | 0x38 => some .sec
  | 0x39 => some (.andAby (addrOfBytes b1 b2))
  | 0x3D => some (.andAbx (addrOfBytes b1 b2))
  | 0x3E => some (.rolAbx (addrOfBytes b1 b2))
  | 0x40 => some .rti
  | 0x41 => some (.eorIzx b1)
  | 0x45 => some (.eorZp b1)
  | 0x46 => some (.lsrZp b1)
  | 0x48 => some .pha
  | 0x49 => some (.eorImm b1)
  | 0x4A => some .lsrAcc
  | 0x4C => some (.jmpAbs (addrOfBytes b1 b2))
  | 0x4D => some (.eorAbs (addrOfBytes b1 b2))
  | 0x4E => some (.lsrAbs (addrOfBytes b1 b2))
  | 0x50 => some (.bvcRel b1)
  | 0x51 => some (.eorIzy b1)
  | 0x55 => some (.eorZpx b1)
  | 0x56 => some (.lsrZpx b1)
  | 0x58 => some .cli
  | 0x59 => some (.eorAby (addrOfBytes b1 b2))
  | 0x5D => some (.eorAbx (addrOfBytes b1 b2))
  | 0x5E => some (.lsrAbx (addrOfBytes b1 b2))
  | 0x60 => some .rts
  | 0x61 => some (.adcIzx b1)
  | 0x65 => some (.adcZp b1)
  | 0x66 => some (.rorZp b1)
  | 0x68 => some .pla
  | 0x69 => some (.adcImm b1)
  | 0x6A => some .rorAcc
  | 0x6C => some (.jmpInd (addrOfBytes b1 b2))
  | 0x6D => some (.adcAbs (addrOfBytes b1 b2))
  | 0x6E => some (.rorAbs (addrOfBytes b1 b2))
  | 0x70 => some (.bvsRel b1)
  | 0x71 => some (.adcIzy b1)
  | 0x75 => some (.adcZpx b1)
  | 0x76 => some (.rorZpx b1)
  | 0x78 => some .sei
  | 0x79 => some (.adcAby (addrOfBytes b1 b2))
  | 0x7D => some (.adcAbx (addrOfBytes b1 b2))
  | 0x7E => some (.rorAbx (addrOfBytes b1 b2))
  | 0x81 => some (.staIzx b1)
  | 0x84 => some (.styZp b1)
  | 0x85 => some (.staZp b1)
  | 0x86 => some (.stxZp b1)
  | 0x88 => some .dey
  | 0x8A => some .txa
  | 0x8C => some (.styAbs (addrOfBytes b1 b2))
  | 0x8D => some (.staAbs (addrOfBytes b1 b2))
  | 0x8E => some (.stxAbs (addrOfBytes b1 b2))
  | 0x90 => some (.bccRel b1)
  | 0x91 => some (.staIzy b1)
  | 0x94 => some (.styZpx b1)
  | 0x95 => some (.staZpx b1)
  | 0x96 => some (.stxZpy b1)
  | 0x98 => some .tya
  | 0x99 => some (.staAby (addrOfBytes b1 b2))
  | 0x9A => some .txs
  | 0x9D => some (.staAbx (addrOfBytes b1 b2))
  | 0xA0 => some (.ldyImm b1)
  | 0xA1 => some (.ldaIzx b1)
  | 0xA2 => some (.ldxImm b1)
  | 0xA4 => some (.ldyZp b1)
  | 0xA5 => some (.ldaZp b1)
  | 0xA6 => some (.ldxZp b1)
  | 0xA8 => some .tay
  | 0xA9 => some (.ldaImm b1)
  | 0xAA => some .tax
  | 0xAC => some (.ldyAbs (addrOfBytes b1 b2))
  | 0xAD => some (.ldaAbs (addrOfBytes b1 b2))
  | 0xAE => some (.ldxAbs (addrOfBytes b1 b2))
  | 0xB0 => some (.bcsRel b1)
  | 0xB1 => some (.ldaIzy b1)
  | 0xB4 => some (.ldyZpx b1)
  | 0xB5 => some (.ldaZpx b1)
  | 0xB6 => some (.ldxZpy b1)
  | 0xB8 => some .clv
  | 0xB9 => some (.ldaAby (addrOfBytes b1 b2))
  | 0xBA => some .tsx
  | 0xBC => some (.ldyAbx (addrOfBytes b1 b2))
  | 0xBD => some (.ldaAbx (addrOfBytes b1 b2))
  | 0xBE => some (.ldxAby (addrOfBytes b1 b2))
  | 0xC0 => some (.cpyImm b1)
  | 0xC1 => some (.cmpIzx b1)
  | 0xC4 => some (.cpyZp b1)
  | 0xC5 => some (.cmpZp b1)
  | 0xC6 => some (.decZp b1)
  | 0xC8 => some .iny
  | 0xC9 => some (.cmpImm b1)
  | 0xCA => some .dex
  | 0xCC => some (.cpyAbs (addrOfBytes b1 b2))
  | 0xCD => some (.cmpAbs (addrOfBytes b1 b2))
  | 0xCE => some (.decAbs (addrOfBytes b1 b2))
  | 0xD0 => some (.bneRel b1)
  | 0xD1 => some (.cmpIzy b1)
  | 0xD5 => some (.cmpZpx b1)
  | 0xD6 => some (.decZpx b1)
  | 0xD8 => some .cld
  | 0xD9 => some (.cmpAby (addrOfBytes b1 b2))
  | 0xDD => some (.cmpAbx (addrOfBytes b1 b2))
  | 0xDE => some (.decAbx (addrOfBytes b1 b2))
  | 0xE0 => some (.cpxImm b1)
  | 0xE1 => some (.sbcIzx b1)
  | 0xE4 => some (.cpxZp b1)
  | 0xE5 => some (.sbcZp b1)
  | 0xE6 => some (.incZp b1)
  | 0xE8 => some .inx
  | 0xE9 => some (.sbcImm b1)
  | 0xEA => some .nop
  | 0xEC => some (.cpxAbs (addrOfBytes b1 b2))
  | 0xED => some (.sbcAbs (addrOfBytes b1 b2))
  | 0xEE => some (.incAbs (addrOfBytes b1 b2))
  | 0xF0 => some (.beqRel b1)
  | 0xF1 => some (.sbcIzy b1)
  | 0xF5 => some (.sbcZpx b1)
  | 0xF6 => some (.incZpx b1)
  | 0xF8 => some .sed
  | 0xF9 => some (.sbcAby (addrOfBytes b1 b2))
  | 0xFD => some (.sbcAbx (addrOfBytes b1 b2))
  | 0xFE => some (.incAbx (addrOfBytes b1 b2))
  | _ => none

/-- The length of the instruction an opcode byte starts; `none` for an illegal opcode (R102: "A decoder tells an
instruction's length from the opcode byte alone"). -/
def opcodeLength (op : Byte) : Option Nat := (decodeOpcode op 0 0).map Instr.length

/-- What the decoder answers. -/
inductive Decoded where
  /-- An instruction, and the bytes after it. -/
  | instr (i : Instr) (rest : List Byte)
  /-- The opcode byte has no table entry (R121; IllegalOpcode, 60_exceptions.md R241). -/
  | illegalOpcode (op : Byte)
  /-- The bytes end before the instruction does. -/
  | truncated
deriving DecidableEq, Repr

/-- Decodes the first instruction of a byte string (R100, R102). Total: it answers an instruction, IllegalOpcode, or
that the bytes are too few (R123). -/
def decode : List Byte → Decoded
  | [] => .truncated
  | op :: bs =>
    match decodeOpcode op (bs.getD 0 0) (bs.getD 1 0) with
    | none => .illegalOpcode op
    | some i => if i.length ≤ bs.length + 1 then .instr i (bs.drop (i.length - 1)) else .truncated

/-- The bytes of an instruction: the opcode, then the operand bytes (R100, R101). -/
def encode (i : Instr) : List Byte := i.opcode :: i.mode.operandBytes

/-- The three bytes at the start of an opcode-table word of `nbits` bits, bit 0 its least significant bit; the bits
above `nbits` are zero. -/
def tableWordBytes (nbits w : Nat) : List Byte :=
  let v := w % 2 ^ nbits
  [BitVec.ofNat 8 v, BitVec.ofNat 8 (v / 0x100), BitVec.ofNat 8 (v / 0x10000)]

/-- The instruction the decoder reads from an opcode-table word. -/
def decodeTableWord (nbits w : Nat) : Option Instr :=
  match decode (tableWordBytes nbits w) with
  | .instr i _ => some i
  | _ => none

end Sys2Proof
end

