-- ==== Sys2Proof/Machine/Memory.lean ====
section
/-! DEFINITION. A block of byte storage as a list of (address, byte) cells in one canonical form: addresses strictly
rising and no cell equal to what an unlisted address reads as. RAM is keyed by its address, a ROM image by the
offset in it (log 13). -/

namespace Sys2Proof.Machine

/-- Byte storage. -/
abbrev Memory := List Host.Cell

namespace Memory

/-- What an unlisted address reads as. DESIGN CHOICE (logs 2, 3): RAM_INIT's simulator default (10_state.md R52),
and the byte a sparse ROM image leaves out. -/
def blank : Byte := 0x00

/-- The byte at an address. -/
def read : Memory → Nat → Byte
  | [], _ => blank
  | (k, v) :: m, a => if k = a then v else read m a

/-- Stores a byte, keeping the canonical form: storing `blank` removes the cell. -/
def write : Memory → Nat → Byte → Memory
  | [], a, v => if v = blank then [] else [(a, v)]
  | (k, w) :: m, a, v =>
    if k < a then (k, w) :: write m a v
    else if k = a then (if v = blank then m else (a, v) :: m)
    else if v = blank then (k, w) :: m else (a, v) :: (k, w) :: m

/-- Cells strictly rising from `lo`, below `size`, none blank. -/
def wfFrom (size : Nat) : Nat → Memory → Bool
  | _, [] => true
  | lo, (k, v) :: m => decide (lo ≤ k) && decide (k < size) && decide (v ≠ blank) && wfFrom size (k + 1) m

/-- The canonical form of a block of `size` bytes. -/
def wf (size : Nat) (m : Memory) : Bool := wfFrom size 0 m

/-- The canonical storage of a byte image whose first byte is at offset `k`. -/
def ofImageFrom : Nat → List Byte → Memory
  | _, [] => []
  | k, b :: bs => if b = blank then ofImageFrom (k + 1) bs else (k, b) :: ofImageFrom (k + 1) bs

/-- The canonical storage of a byte image. -/
def ofImage (image : List Byte) : Memory := ofImageFrom 0 image

end Memory

end Sys2Proof.Machine
end

