-- ==== Sys2Proof/Machine/State.lean ====
section
/-! DEFINITION. The whole state of the block as plain data (10_state.md), the reasons a step can stop, and the state
after reset (10_state.md R52, 70_reset_and_hazards.md R330). -/

namespace Sys2Proof.Machine

/-- The seven flags, independent booleans (10_state.md R36). -/
structure Flags where
  c : Bool
  z : Bool
  i : Bool
  d : Bool
  b : Bool
  v : Bool
  n : Bool
deriving DecidableEq, Repr

/-- The 8-bit registers of CpuState (10_state.md R31-R33). -/
inductive Reg where
  | a
  | x
  | y
  | sp
deriving DecidableEq, Repr

/-- A VIA's Timer 1 unit (10_state.md R45). -/
structure T1 where
  latch : BitVec 16
  counter : BitVec 16
  running : Bool
  reloadPending : Bool
deriving DecidableEq, Repr

/-- The two VIA instances (60_exceptions.md R270). -/
inductive ViaId where
  | system
  | user
deriving DecidableEq, Repr

/-- A VIA: the 16 register bytes in the offset order of 60_exceptions.md R271, the two control-line outputs and
Timer 1 (10_state.md R45). -/
structure Via where
  orb : Byte
  ora : Byte
  ddrb : Byte
  ddra : Byte
  t1cl : Byte
  t1ch : Byte
  t1ll : Byte
  t1lh : Byte
  t2cl : Byte
  t2ch : Byte
  sr : Byte
  acr : Byte
  pcr : Byte
  ifr : Byte
  ier : Byte
  oraNh : Byte
  ca2 : Bool
  cb2 : Bool
  t1 : T1
deriving DecidableEq, Repr

/-- The names timers are registered under (60_exceptions.md R301): "System VIA T1", "User VIA T1" and "frame". -/
inductive TimerName where
  | systemViaT1
  | userViaT1
  | frame
deriving DecidableEq, Repr

/-- An open batch: its budget in CPU cycles and the cycles used so far (10_state.md R43). -/
structure Batch where
  budget : Nat
  used : Nat
deriving DecidableEq, Repr

/-- Which side of the bus an access is on (60_exceptions.md R246). -/
inductive Access where
  | read
  | write (value : Byte)
deriving DecidableEq, Repr

/-- The region a ReadOnlyViolation names (60_exceptions.md R245). -/
inductive RomRegion where
  | osRom
  | pagedRom (bank : Byte)
deriving DecidableEq, Repr

/-- The six fault kinds with the address and value involved (60_exceptions.md R241-R246). Each is fatal in the spec
(R240), so stopping there is no departure from it: safe. -/
inductive FaultKind where
  /-- R241. Raised by the fetch of an opcode byte that has no table entry. Safe. -/
  | illegalOpcode (opcode : Byte) (pc : Addr)
  /-- R242. Raised after an instruction that leaves PC unchanged: one that is no control-flow instruction, or any
  when DETECT_SELF_LOOP is true. Safe. -/
  | stuckProgramCounter (pc : Addr)
  /-- R243. Raised by the effective-address function for a mode its caller does not support; unreachable. Safe. -/
  | unimplementedAddressingMode (mode : AddrMode)
  /-- R244. Raised by Addr16 when an address or PC computation leaves 0x0000-0xFFFF. Safe. -/
  | outOfRange (address : Int) (value : Option Byte)
  /-- R245. Raised by a write to OS ROM (other than 0xFE30) or to the paged-ROM window. Safe. -/
  | readOnlyViolation (region : RomRegion) (address : Addr) (value : Byte)
  /-- R246. Raised by an access to an ignored window when STRICT_IGNORED is true. Safe. -/
  | ignoredHardwareAccess (address : Addr) (access : Access)
deriving DecidableEq, Repr

/-- The report of a fault (60_exceptions.md R240): kind (with address and value), PC of the dispatch, the opcode if it
was fetched, and cycleCount at the start of the dispatch. -/
structure FaultReport where
  kind : FaultKind
  pc : Addr
  opcode : Option Byte
  cycleCount : Nat
deriving DecidableEq, Repr

/-- The run loop's state (10_state.md R43). -/
inductive RunState where
  | running
  | stoppedCancel
  | stoppedFault (report : FaultReport)
deriving DecidableEq, Repr

/-- Every piece of state the spec gives the block; INVENTORY.md names each field's rule. -/
structure State where
  /-- PC (R34). -/
  pc : Addr
  /-- A (R31). -/
  a : Byte
  /-- X (R32). -/
  x : Byte
  /-- Y (R32). -/
  y : Byte
  /-- SP, an offset into page 1 (R33). -/
  sp : Byte
  /-- The seven flags (R36). -/
  flags : Flags
  /-- The IRQ latch (R41). -/
  irqPending : Bool
  /-- The NMI latch (R41). -/
  nmiPending : Bool
  /-- cycleCount (R35). -/
  cycleCount : Nat
  /-- RAM, keyed by address 0x0000-0x7FFF (R44). -/
  ram : Memory
  /-- The OS ROM image, keyed by offset 0x0000-0x3FFF (R44). -/
  osRom : Memory
  /-- BANKS: bank key to paged-ROM image, keyed by offset (R44). -/
  banks : List (Byte × Memory)
  /-- The selected bank's key (R44). -/
  selectedBank : Byte
  /-- The System VIA (R45). -/
  systemVia : Via
  /-- The User VIA (R45). -/
  userVia : Via
  /-- The registered timers, by name (R46). -/
  timers : List TimerName
  /-- The TimerManager's remainder (R46). -/
  remainder : Nat
  /-- The frame timer's remaining (R47). -/
  frameRemaining : Nat
  /-- The "request repaint now" events emitted so far (60_exceptions.md R304): the model's own field (log 11). -/
  repaintRequests : Nat
  /-- keyPending (R48). -/
  keyPending : Bool
  /-- cancelRequested (R49). -/
  cancelRequested : Bool
  /-- The open batch, if one is open (R43). -/
  batch : Option Batch
  /-- Running or Stopped (R43). -/
  run : RunState
  /-- The parameters of 00_scope.md R9, fixed for the run. -/
  cfg : Config
deriving DecidableEq, Repr

/-- Why a step stops. -/
inductive Fault where
  /-- The step's dispatch raised the reported fault (60_exceptions.md R240). `final` is the state the block is left in:
  the accesses before the faulting one are performed, and its `run` is Stopped(fault) with this report. Raised by the
  fetch, by an instruction's meaning or by an interrupt entry. Safe: the spec stops there too. -/
  | raised (report : FaultReport) (final : State)
  /-- The machine had already stopped, by a fault or by cancel (R240, R262). Raised by the run loop. Safe: "No
  dispatch follows". -/
  | alreadyStopped (final : State)
deriving DecidableEq, Repr

/-- Why an instruction has no meaning here. -/
inductive Refusal where
  /-- The instruction is not modelled. Raised by no arm of this model. Safe. -/
  | notModelled (mnemonic : String)
deriving DecidableEq, Repr

/-- The outcome of a step or of an instruction. -/
abbrev StepOutcome := Host.Outcome State Fault Refusal

/-- RESET_REGS (00_scope.md R9): the registers and flags reset leaves open. -/
structure ResetRegs where
  a : Byte
  x : Byte
  y : Byte
  sp : Byte
  c : Bool
  z : Bool
  n : Bool
  v : Bool
  d : Bool
deriving DecidableEq, Repr

/-- A VIA at reset (10_state.md R52, 70_reset_and_hazards.md R333). -/
def Via.reset : Via :=
  { orb := 0, ora := 0, ddrb := 0, ddra := 0, t1cl := 0, t1ch := 0, t1ll := 0, t1lh := 0, t2cl := 0, t2ch := 0,
    sr := 0, acr := 0, pcr := 0, ifr := 0, ier := 0, oraNh := 0, ca2 := false, cb2 := false,
    t1 := { latch := 0, counter := 0, running := false, reloadPending := false } }

/-- The state after reset for given launch inputs: RESET_REGS, RAM_INIT, OS_ROM, BANKS and the parameters
(70_reset_and_hazards.md R330; values from 10_state.md R52). PC is the word at 0xFFFC, OS ROM offset 0x3FFC. -/
def State.atReset (r : ResetRegs) (ram osRom : Memory) (banks : List (Byte × Memory)) (cfg : Config) : State :=
  { pc := addrOfBytes (osRom.read 0x3FFC) (osRom.read 0x3FFD)
    a := r.a, x := r.x, y := r.y, sp := r.sp
    flags := { c := r.c, z := r.z, i := true, d := r.d, b := false, v := r.v, n := r.n }
    irqPending := false, nmiPending := false, cycleCount := 0
    ram := ram, osRom := osRom, banks := banks, selectedBank := Config.initialBank
    systemVia := Via.reset, userVia := Via.reset
    timers := [.systemViaT1, .userViaT1, .frame], remainder := 0
    frameRemaining := Config.framePeriod, repaintRequests := 0
    keyPending := false, cancelRequested := false
    batch := none, run := .running, cfg := cfg }

/-- DESIGN CHOICE (log 1): RESET_REGS is open (10_state.md R52, R53); these are the spec's simulator defaults. -/
def ResetRegs.simulatorDefaults : ResetRegs :=
  { a := 0x00, x := 0x00, y := 0x00, sp := 0xFD, c := false, z := false, n := false, v := false, d := false }

/-- The state after reset with nothing loaded. DESIGN CHOICE (logs 1, 2, 3, 8) for every launch input: the simulator
defaults for RESET_REGS and RAM_INIT, the blank OS ROM image, no bank, `Config.default`. -/
def State.reset : State := State.atReset ResetRegs.simulatorDefaults [] [] [] Config.default

/-! The updates every operation goes through, one per piece of CPU and memory state. -/

/-- The value of an 8-bit register. -/
def State.reg (s : State) : Reg → Byte
  | .a => s.a
  | .x => s.x
  | .y => s.y
  | .sp => s.sp

/-- Writes an 8-bit register. -/
def State.withReg (s : State) (r : Reg) (v : Byte) : State :=
  match r with
  | .a => { s with a := v }
  | .x => { s with x := v }
  | .y => { s with y := v }
  | .sp => { s with sp := v }

/-- Writes PC. -/
def State.withPc (s : State) (pc : Addr) : State := { s with pc := pc }

/-- Writes the flags. -/
def State.withFlags (s : State) (f : Flags) : State := { s with flags := f }

/-- Writes cycleCount. -/
def State.withCycleCount (s : State) (n : Nat) : State := { s with cycleCount := n }

/-- Writes RAM. -/
def State.withRam (s : State) (m : Memory) : State := { s with ram := m }

/-- Writes the bank-select register. -/
def State.withSelectedBank (s : State) (k : Byte) : State := { s with selectedBank := k }

/-- A VIA by its instance. -/
def State.via (s : State) : ViaId → Via
  | .system => s.systemVia
  | .user => s.userVia

/-- Writes a VIA. -/
def State.withVia (s : State) (id : ViaId) (v : Via) : State :=
  match id with
  | .system => { s with systemVia := v }
  | .user => { s with userVia := v }

end Sys2Proof.Machine
end

