-- ==== Sys2Proof/Machine/Flags.lean ====
section
/-! DEFINITION. Every flag computation and byte function of the spec: the status byte (10_state.md R37, R38), the
adders, compare and bit test (41_arithmetic_logic.md), the shifts (42_shift_rotate.md). -/

namespace Sys2Proof.Machine

/-- `SetNZ(v)` (00_scope.md R13): Z and N from a result byte. -/
def setNZ (v : Byte) (f : Flags) : Flags := { f with z := v == 0, n := v.getLsbD 7 }

/-- `P(b) = N<<7 | V<<6 | 1<<5 | b<<4 | D<<3 | I<<2 | Z<<1 | C` (10_state.md R37): the stored B flag does not enter. -/
def statusByte (b : Bool) (f : Flags) : Byte :=
  BitVec.ofNat 8
    (f.n.toNat <<< 7 ||| f.v.toNat <<< 6 ||| 1 <<< 5 ||| b.toNat <<< 4 ||| f.d.toNat <<< 3 ||| f.i.toNat <<< 2
      ||| f.z.toNat <<< 1 ||| f.c.toNat)

/-- The flags a pulled status byte gives (10_state.md R38): bits 5 and 4 are discarded and B is kept. -/
def pulledFlags (s : Byte) (f : Flags) : Flags :=
  { f with
    n := s.getLsbD 7, v := s.getLsbD 6, d := s.getLsbD 3, i := s.getLsbD 2, z := s.getLsbD 1, c := s.getLsbD 0 }

/-- A result byte with the four arithmetic flags. -/
structure AddResult where
  r : Byte
  c : Bool
  z : Bool
  n : Bool
  v : Bool
deriving DecidableEq, Repr

/-- The binary adder `AddBin(a, m, c)` (41_arithmetic_logic.md R150). -/
def addBin (a m : Byte) (c : Bool) : AddResult :=
  let s := a.toNat + m.toNat + c.toNat
  let r := u8 s
  { r := r, c := decide (s > 0xFF), z := r == 0, n := r.getLsbD 7, v := ((a ^^^ r) &&& (m ^^^ r) &&& 0x80) != 0 }

/-- `DecimalADC(a, m, c)` (41_arithmetic_logic.md R152). -/
def decimalAdc (a m : Byte) (c : Bool) : AddResult :=
  let bin := u8 (a.toNat + m.toNat + c.toNat)
  let lo0 := (a &&& 0x0F).toNat + (m &&& 0x0F).toNat + c.toNat
  let lo := if lo0 ≥ 0x0A then ((lo0 + 0x06) &&& 0x0F) + 0x10 else lo0
  let s := (a &&& 0xF0).toNat + (m &&& 0xF0).toNat + lo
  let ss : Int := sext8 (a &&& 0xF0) + sext8 (m &&& 0xF0) + lo
  let adj := if s ≥ 0xA0 then s + 0x60 else s
  { r := u8 adj, c := decide (adj ≥ 0x100), z := bin == 0, n := s.testBit 7,
    v := decide (ss < -128) || decide (ss > 127) }

/-- `DecimalSBC(a, m, c)` (41_arithmetic_logic.md R154). `v & 0x0F` of a two's-complement integer is its non-negative
remainder modulo 16, and `u8` takes the non-negative remainder modulo 256 (00_scope.md R11). -/
def decimalSbc (a m : Byte) (c : Bool) : Byte :=
  let lo0 : Int := (a &&& 0x0F).toNat - (m &&& 0x0F).toNat + c.toNat - 1
  let lo : Int := if lo0 < 0 then (lo0 - 0x06) % 16 - 0x10 else lo0
  let s : Int := (a &&& 0xF0).toNat - (m &&& 0xF0).toNat + lo
  BitVec.ofInt 8 (if s < 0 then s - 0x60 else s)

/-- C, Z, N, V of an addition written to the flags; I, D, B unchanged. -/
def withArith (o : AddResult) (f : Flags) : Flags := { f with c := o.c, z := o.z, n := o.n, v := o.v }

/-- ADC's accumulator and flags (41_arithmetic_logic.md R151): binary or decimal by D. -/
def adcResult (a m : Byte) (f : Flags) : Byte × Flags :=
  let o := if f.d then decimalAdc a m f.c else addBin a m f.c
  (o.r, withArith o f)

/-- SBC's accumulator and flags (41_arithmetic_logic.md R153): the flags are the binary ones in both modes. -/
def sbcResult (a m : Byte) (f : Flags) : Byte × Flags :=
  let o := addBin a (~~~ m) f.c
  (if f.d then decimalSbc a m f.c else o.r, withArith o f)

/-- `Compare(r, m)` (41_arithmetic_logic.md R158). -/
def compareFlags (r m : Byte) (f : Flags) : Flags :=
  { f with c := decide (r.toNat ≥ m.toNat), z := r == m, n := (r - m).getLsbD 7 }

/-- The flags of BIT (41_arithmetic_logic.md R162). -/
def bitFlags (a m : Byte) (f : Flags) : Flags :=
  { f with z := (a &&& m) == 0, n := m.getLsbD 7, v := m.getLsbD 6 }

/-- A one-byte shift function `f(v, C) -> (r, C')` (42_shift_rotate.md R180). -/
inductive Shift where
  | asl
  | lsr
  | rol
  | ror
deriving DecidableEq, Repr

/-- The result byte of a shift or rotate (R181-R184). -/
def Shift.byte (op : Shift) (v : Byte) (c : Bool) : Byte :=
  match op with
  | .asl => v <<< 1
  | .lsr => v >>> 1
  | .rol => (v <<< 1) ||| bitByte c
  | .ror => (v >>> 1) ||| (bitByte c <<< 7)

/-- The carry out of a shift or rotate (R181-R184): old bit 7 to the left, old bit 0 to the right. -/
def Shift.carry (op : Shift) (v : Byte) : Bool :=
  match op with
  | .asl | .rol => v.getLsbD 7
  | .lsr | .ror => v.getLsbD 0

/-- `C <- c; SetNZ(r)` of a shift (R180). -/
def shiftFlags (op : Shift) (v : Byte) (f : Flags) : Flags :=
  setNZ (op.byte v f.c) { f with c := op.carry v }

end Sys2Proof.Machine
end

