-- ==== Sys2Proof/Machine/Via.lean ====
section
/-! DEFINITION. The VIA register file: `get`, `set` and `forceIFR` (60_exceptions.md R270-R286). -/

namespace Sys2Proof.Machine

/-- An instance's name (60_exceptions.md R270). -/
def ViaId.name : ViaId → String
  | .system => "System VIA"
  | .user => "User VIA"

/-- An instance's base address (60_exceptions.md R270). -/
def ViaId.base : ViaId → Nat
  | .system => 0xFE40
  | .user => 0xFE60

/-- `get(o)` (R272): IER reads with bit 7 forced to 1 (R274), every other register its raw byte; an offset outside
0x0-0xF reads 0 (R286). No read changes any state (R285). -/
def Via.get (v : Via) (o : Nat) : Byte :=
  match o with
  | 0x0 => v.orb
  | 0x1 => v.ora
  | 0x2 => v.ddrb
  | 0x3 => v.ddra
  | 0x4 => v.t1cl
  | 0x5 => v.t1ch
  | 0x6 => v.t1ll
  | 0x7 => v.t1lh
  | 0x8 => v.t2cl
  | 0x9 => v.t2ch
  | 0xA => v.sr
  | 0xB => v.acr
  | 0xC => v.pcr
  | 0xD => v.ifr
  | 0xE => v.ier ||| 0x80
  | 0xF => v.oraNh
  | _ => 0

/-- The latch with its low byte replaced (R280). -/
def T1.withLatchLow (t : T1) (b : Byte) : T1 := { t with latch := (t.latch &&& 0xFF00) ||| zext16 b }

/-- The latch with its high byte replaced (R281, R282). -/
def T1.withLatchHigh (t : T1) (b : Byte) : T1 := { t with latch := (zext16 b <<< 8) ||| (t.latch &&& 0x00FF) }

/-- Loads the counter from the latch and starts the timer (R281). -/
def T1.start (t : T1) : T1 := { t with counter := t.latch, reloadPending := false, running := true }

/-- The IER storage after a write (R275): set-or-clear of the low 7 bits. -/
def ierWrite (ier v : Byte) : Byte :=
  if v.getLsbD 7 then ier ||| (v &&& 0x7F) else ier &&& (0x7F ^^^ (v &&& 0x7F))

/-- A control line after a PCR write whose three control bits are `field` (R278, R279): 110 clears it, any other field
with its top bit set sets it, and the rest leave it. -/
def controlLine (field : BitVec 3) (line : Bool) : Bool :=
  if field = 0b110 then false else if field.getLsbD 2 then true else line

/-- `set(o, v)` (R273): PCR R278 and R279, IFR R276, IER R275, the Timer 1 registers R280-R282, raw storage R283; an
offset outside 0x0-0xF drops the write (R286). -/
def Via.set (via : Via) (o : Nat) (v : Byte) : Via :=
  match o with
  | 0x0 => { via with orb := v }
  | 0x1 => { via with ora := v }
  | 0x2 => { via with ddrb := v }
  | 0x3 => { via with ddra := v }
  | 0x4 => { via with t1cl := v, t1 := via.t1.withLatchLow v }
  | 0x5 => { via with t1ch := v, t1 := (via.t1.withLatchHigh v).start }
  | 0x6 => { via with t1ll := v, t1 := via.t1.withLatchLow v }
  | 0x7 => { via with t1lh := v, t1 := via.t1.withLatchHigh v }
  | 0x8 => { via with t2cl := v }
  | 0x9 => { via with t2ch := v }
  | 0xA => { via with sr := v }
  | 0xB => { via with acr := v }
  | 0xC =>
    { via with
      pcr := v, ca2 := controlLine (v.extractLsb' 1 3) via.ca2, cb2 := controlLine (v.extractLsb' 5 3) via.cb2 }
  | 0xD => { via with ifr := v }
  | 0xE => { via with ier := ierWrite via.ier v }
  | 0xF => { via with oraNh := v }
  | _ => via

/-- `forceIFR()`, "enable interrupt externally" (R277). -/
def Via.forceIfr (via : Via) : Via := { via with ifr := 0xFF }

/-- An interrupt source of the VIA sets its IFR bit, and bit 7 with it when IER enables the source (R291, R294). -/
def Via.flagSource (via : Via) (bit : Byte) : Via :=
  { via with ifr := via.ifr ||| bit ||| (if via.ier &&& bit ≠ 0 then 0x80 else 0) }

/-- Whether IER enables a source (R291, R294). -/
def Via.enabled (via : Via) (bit : Byte) : Bool := via.ier &&& bit != 0

end Sys2Proof.Machine
end

