-- ==== Sys2Proof/Machine/Ops.lean ====
section
/-! DEFINITION. The named operations every instruction is written over (00_scope.md R13): registers, the address decoder
(20_memory.md R61-R74), 16-bit reads and the stack (R75-R79), taking an interrupt or BRK and returning from it
(60_exceptions.md R254, 44_stack_flags_system.md R222, R223), and how an instruction begins, ends and faults. -/

namespace Sys2Proof.Machine

/-- The steps of one dispatch: each reads and changes the state, or raises a fault with the state left by the steps
before it (60_exceptions.md R240). -/
abbrev Exec := EStateM FaultKind State

/-! ## Registers and flags -/

/-- Reads an 8-bit register. -/
def getReg (r : Reg) : Exec Byte := fun s => .ok (s.reg r) s

/-- Writes an 8-bit register. -/
def setReg (r : Reg) (v : Byte) : Exec Unit := fun s => .ok () (s.withReg r v)

/-- Reads PC. -/
def getPc : Exec Addr := fun s => .ok s.pc s

/-- `pc <- target` (00_scope.md R13). -/
def setPc (target : Addr) : Exec Unit := fun s => .ok () (s.withPc target)

/-- Reads the flags. -/
def getFlags : Exec Flags := fun s => .ok s.flags s

/-- Changes the flags. -/
def updateFlags (f : Flags → Flags) : Exec Unit := fun s => .ok () (s.withFlags (f s.flags))

/-- `cycles += n` (00_scope.md R13). -/
def addCycles (n : Nat) : Exec Unit := fun s => .ok () (s.withCycleCount (s.cycleCount + n))

/-- `raise F(info)` (00_scope.md R13). -/
def raise {α : Type} (k : FaultKind) : Exec α := fun s => .error k s

/-! ## The address decoder -/

/-- `Addr16(v)` (20_memory.md R61). No write computes its value before its address, so the report's value is
absent (log 10). -/
def addr16 (v : Int) : Exec Addr := fun s =>
  if 0 ≤ v ∧ v.toNat ≤ 0xFFFF then .ok (BitVec.ofNat 16 v.toNat) s else .error (.outOfRange v none) s

/-- The ignored windows of 20_memory.md R65, as (first, last) addresses: serial ACIA, serial ULA, video ULA, ADC, the
two Tube addresses, FRED and JIM. -/
def ignoredWindows : List (Nat × Nat) :=
  [(0xFE08, 0xFE09), (0xFE10, 0xFE10), (0xFE20, 0xFE21), (0xFEC0, 0xFEC2), (0xFEE0, 0xFEE0), (0xFEE5, 0xFEE5),
    (0xFC00, 0xFCFF), (0xFD00, 0xFDFF)]

/-- Whether an address is in IgnoredWindows (20_memory.md R65). -/
def isIgnored (n : Nat) : Bool :=
  (ignoredWindows ++ Config.extraIgnoredWindows).any fun w => decide (w.1 ≤ n) && decide (n ≤ w.2)

/-- What the address decoder routes an address to. -/
inductive Region where
  | ram
  | ignored
  | via (id : ViaId) (offset : Nat)
  | bankSelect
  | osRom (offset : Nat)
  | pagedRom (offset : Nat)
deriving DecidableEq, Repr

/-- The routing order of MemRead and MemWrite (20_memory.md R62, R63). 0xFE30 is a region of its own because only its
write side selects a bank (R72, R73). -/
def region (a : Addr) : Region :=
  let n := a.toNat
  if n ≤ 0x7FFF then .ram
  else if isIgnored n then .ignored
  else if 0xFE40 ≤ n ∧ n ≤ 0xFE4F then .via .system (n - 0xFE40)
  else if 0xFE60 ≤ n ∧ n ≤ 0xFE6F then .via .user (n - 0xFE60)
  else if n = 0xFE30 then .bankSelect
  else if 0xC000 ≤ n then .osRom (n - 0xC000)
  else .pagedRom (n - 0x8000)

/-- The image registered under a bank key (20_memory.md R70). -/
def bankImage (key : Byte) : List (Byte × Memory) → Option Memory
  | [] => none
  | (k, image) :: rest => if k = key then some image else bankImage key rest

/-- The byte a read of an address gives when it raises nothing (20_memory.md R62): ignored windows and an unregistered
bank give the sentinel 0x00. -/
def State.peek (s : State) (a : Addr) : Byte :=
  match region a with
  | .ram => s.ram.read a.toNat
  | .ignored => 0x00
  | .via id o => (s.via id).get o
  | .bankSelect => s.osRom.read 0x3E30
  | .osRom o => s.osRom.read o
  | .pagedRom o =>
    match bankImage s.selectedBank s.banks with
    | some image => image.read o
    | none => 0x00

/-- `MemRead(a, 1)` (20_memory.md R62): the only read that raises is one of an ignored window under strict mode (R66). -/
def memRead (a : Addr) : Exec Byte := fun s =>
  if s.cfg.strictIgnored && region a == .ignored then .error (.ignoredHardwareAccess a .read) s
  else .ok (s.peek a) s

/-- `MemWrite(a, 1, v)` (20_memory.md R63). -/
def memWrite (a : Addr) (v : Byte) : Exec Unit := fun s =>
  match region a with
  | .ram => .ok () (s.withRam (s.ram.write a.toNat v))
  | .ignored => if s.cfg.strictIgnored then .error (.ignoredHardwareAccess a (.write v)) s else .ok () s
  | .via id o => .ok () (s.withVia id ((s.via id).set o v))
  | .bankSelect => .ok () (s.withSelectedBank v)
  | .osRom _ => .error (.readOnlyViolation .osRom a v) s
  | .pagedRom _ => .error (.readOnlyViolation (.pagedRom s.selectedBank) a v) s

/-- `Read16(a)` (20_memory.md R75): low byte first. -/
def read16 (a : Addr) : Exec Addr := do
  let lo ← memRead a
  let a1 ← addr16 (a.toNat + 1)
  let hi ← memRead a1
  pure (addrOfBytes lo hi)

/-! ## The stack -/

/-- The address SP designates, `0x0100 + SP` (10_state.md R33). -/
def stackAddr (sp : Byte) : Addr := 0x0100 + zext16 sp

/-- `Push(v)` (20_memory.md R76): write, then decrement SP modulo 256. -/
def push (v : Byte) : Exec Unit := do
  let sp ← getReg .sp
  memWrite (stackAddr sp) v
  setReg .sp (sp - 1)

/-- `Pull()` (20_memory.md R77): increment SP modulo 256, then read. -/
def pull : Exec Byte := do
  let sp ← getReg .sp
  setReg .sp (sp + 1)
  memRead (stackAddr (sp + 1))

/-- `Push16(v)` (20_memory.md R78): high byte first. -/
def push16 (v : Addr) : Exec Unit := do
  push (hiByte v)
  push (loByte v)

/-- `Pull16()` (20_memory.md R79): low byte first. -/
def pull16 : Exec Addr := do
  let lo ← pull
  let hi ← pull
  pure (addrOfBytes lo hi)

/-! ## Taking an interrupt or BRK, and returning -/

/-- The entry shared by IRQ, NMI and BRK (60_exceptions.md R254, R255; 44_stack_flags_system.md R222): the return
address and the status byte `P(b)` go on the stack, I is set, and PC is read from the vector. D and the stored B flag
are not written. -/
def enterInterrupt (ret : Addr) (b : Bool) (vector : Addr) : Exec Unit := do
  push16 ret
  let f ← getFlags
  push (statusByte b f)
  updateFlags fun f => { f with i := true }
  let target ← read16 vector
  setPc target

/-- The return shared by every handler (44_stack_flags_system.md R223; 60_exceptions.md R263): the six flags, then PC,
from the stack. -/
def returnFromInterrupt : Exec Unit := do
  let s ← pull
  updateFlags (pulledFlags s)
  let t ← pull16
  setPc t

/-! ## How a dispatch ends -/

/-- A dispatch that began in `s0` and raised `k` after leaving `s'` (60_exceptions.md R240): the run loop enters
Stopped(fault) with the report. -/
def halt (s0 : State) (opcode : Option Byte) (k : FaultKind) (s' : State) : StepOutcome :=
  let report : FaultReport := { kind := k, pc := s0.pc, opcode := opcode, cycleCount := s0.cycleCount }
  .fault (.raised report { s' with run := .stoppedFault report })

/-- StuckCheck (60_exceptions.md R242): PC unchanged after an instruction that is no control-flow instruction, or after
any when DETECT_SELF_LOOP is true. -/
def isStuck (i : Instr) (s0 s' : State) : Bool :=
  s'.pc == s0.pc && (!i.isControlFlow || s0.cfg.detectSelfLoop)

/-- Runs the rule of instruction `i` and then StuckCheck (60_exceptions.md R258; log 14). -/
def perform (i : Instr) (body : Exec Unit) (s : State) : StepOutcome :=
  match body.run s with
  | .error k s' => halt s (some i.opcode) k s'
  | .ok _ s' => if isStuck i s s' then halt s (some i.opcode) (.stuckProgramCounter s.pc) s' else .next s'

/-- `PC <- Addr16(PC + len); cycles += base`, the end of every non-control-flow instruction
(40_load_store_transfer.md R130). -/
def advance (len base : Nat) : Exec Unit := do
  let pc ← getPc
  let next ← addr16 (pc.toNat + len)
  setPc next
  addCycles base

/-- A non-control-flow instruction: its effect, then the common ending with its table row's length and base cost (R130). -/
def straight (i : Instr) (body : Exec Unit) (s : State) : StepOutcome :=
  perform i (do body; advance i.length i.baseCycles) s

end Sys2Proof.Machine
end

