-- ==== Sys2Proof/Machine/Operands.lean ====
section
/-! DEFINITION. The addressing modes: the effective address and the operand (30_encoding.md R104-R117). The operand
bytes have been fetched by the step and stand in the mode's fields (log 9). -/

namespace Sys2Proof.Machine

/-- A 16-bit pointer in zero page whose second byte also wraps within zero page (30_encoding.md R113, R114). -/
def zeroPagePointer (z : Byte) : Exec Addr := do
  let lo ← memRead (zext16 z)
  let hi ← memRead (zext16 (z + 1))
  pure (addrOfBytes lo hi)

/-- The address of a JMP-indirect pointer's high byte: the same page as the low byte (30_encoding.md R112). -/
def samePageNext (ptr : Addr) : Addr := (ptr &&& 0xFF00) ||| zext16 (loByte ptr + 1)

/-- `EA(mode)` (30_encoding.md R104-R114). -/
def ea : AddrMode → Exec Addr
  | .implied => raise (.unimplementedAddressingMode .implied)
  | .immediate _ => do
    let pc ← getPc
    addr16 (pc.toNat + 1)
  | .zeroPage zp => pure (zext16 zp)
  | .zeroPageX zp => do
    let x ← getReg .x
    pure (zext16 (zp + x))
  | .zeroPageY zp => do
    let y ← getReg .y
    pure (zext16 (zp + y))
  | .absolute a => pure a
  | .absoluteX a => do
    let x ← getReg .x
    addr16 (a.toNat + x.toNat)
  | .absoluteY a => do
    let y ← getReg .y
    addr16 (a.toNat + y.toNat)
  | .indirect ptr => do
    let lo ← memRead ptr
    let hi ← memRead (samePageNext ptr)
    pure (addrOfBytes lo hi)
  | .indexedIndirect zp => do
    let x ← getReg .x
    zeroPagePointer (zp + x)
  | .indirectIndexed zp => do
    let p ← zeroPagePointer zp
    let y ← getReg .y
    addr16 (p.toNat + y.toNat)

/-- `Operand(mode)` (30_encoding.md R104, R105, R115). The Immediate operand is the byte after the opcode, which the
fetch read. -/
def operand (mode : AddrMode) : Exec Byte :=
  match mode with
  | .implied => raise (.unimplementedAddressingMode .implied)
  | .immediate b => pure b
  | m => do
    let a ← ea m
    memRead a

end Sys2Proof.Machine
end

