-- ==== Sys2Proof/Machine/Arith.lean ====
section
/-! DEFINITION. Arithmetic, logic, compare and increment (41_arithmetic_logic.md R150-R168). -/

namespace Sys2Proof.Machine

/-- An accumulator operation: `v <- Operand(mode)`, then A and the flags from `op A v flags` (ADC R151, SBC R153, AND R155,
ORA R156, EOR R157). -/
def accumulate (op : Byte → Byte → Flags → Byte × Flags) (mode : AddrMode) : Exec Unit := do
  let v ← operand mode
  let a ← getReg .a
  let f ← getFlags
  setReg .a (op a v f).1
  updateFlags fun f => (op a v f).2

/-- AND's accumulator and flags (R155). -/
def andResult (a m : Byte) (f : Flags) : Byte × Flags := (a &&& m, setNZ (a &&& m) f)

/-- ORA's accumulator and flags (R156). -/
def oraResult (a m : Byte) (f : Flags) : Byte × Flags := (a ||| m, setNZ (a ||| m) f)

/-- EOR's accumulator and flags (R157). -/
def eorResult (a m : Byte) (f : Flags) : Byte × Flags := (a ^^^ m, setNZ (a ^^^ m) f)

/-- CMP, CPX, CPY (R159-R161): `Compare(reg, Operand(mode))`. -/
def compareReg (r : Reg) (mode : AddrMode) : Exec Unit := do
  let m ← operand mode
  let v ← getReg r
  updateFlags (compareFlags v m)

/-- BIT (R162). -/
def bitTest (mode : AddrMode) : Exec Unit := do
  let m ← operand mode
  let a ← getReg .a
  updateFlags (bitFlags a m)

/-- INC, DEC (R163, R164): one read, one write of `op v` at the same address, then `SetNZ`. -/
def modifyMem (op : Byte → Byte) (mode : AddrMode) : Exec Unit := do
  let a ← ea mode
  let v ← memRead a
  memWrite a (op v)
  updateFlags (setNZ (op v))

/-- INX, INY, DEX, DEY (R165-R168): `reg <- op reg; SetNZ(reg)`. -/
def modifyReg (op : Byte → Byte) (r : Reg) : Exec Unit := do
  let v ← getReg r
  setReg r (op v)
  updateFlags (setNZ (op v))

/-- `u8(v + 1)`. -/
def increment (v : Byte) : Byte := v + 1

/-- `u8(v - 1)`. -/
def decrement (v : Byte) : Byte := v - 1

/-- `ADC ($nn,X)`, opcode 0x61 (R151). -/
def execAdcIzx (zp8 : Byte) (s : State) : StepOutcome :=
  straight (.adcIzx zp8) (accumulate adcResult (.indexedIndirect zp8)) s

/-- `ADC $nn`, opcode 0x65 (R151). -/
def execAdcZp (zp8 : Byte) (s : State) : StepOutcome :=
  straight (.adcZp zp8) (accumulate adcResult (.zeroPage zp8)) s

/-- `ADC #$nn`, opcode 0x69 (R151). -/
def execAdcImm (imm8 : Byte) (s : State) : StepOutcome :=
  straight (.adcImm imm8) (accumulate adcResult (.immediate imm8)) s

/-- `ADC $nnnn`, opcode 0x6D (R151). -/
def execAdcAbs (addr16 : Addr) (s : State) : StepOutcome :=
  straight (.adcAbs addr16) (accumulate adcResult (.absolute addr16)) s

/-- `ADC ($nn),Y`, opcode 0x71 (R151). -/
def execAdcIzy (zp8 : Byte) (s : State) : StepOutcome :=
  straight (.adcIzy zp8) (accumulate adcResult (.indirectIndexed zp8)) s

/-- `ADC $nn,X`, opcode 0x75 (R151). -/
def execAdcZpx (zp8 : Byte) (s : State) : StepOutcome :=
  straight (.adcZpx zp8) (accumulate adcResult (.zeroPageX zp8)) s

/-- `ADC $nnnn,Y`, opcode 0x79 (R151). -/
def execAdcAby (addr16 : Addr) (s : State) : StepOutcome :=
  straight (.adcAby addr16) (accumulate adcResult (.absoluteY addr16)) s

/-- `ADC $nnnn,X`, opcode 0x7D (R151). -/
def execAdcAbx (addr16 : Addr) (s : State) : StepOutcome :=
  straight (.adcAbx addr16) (accumulate adcResult (.absoluteX addr16)) s

/-- `SBC ($nn,X)`, opcode 0xE1 (R153). -/
def execSbcIzx (zp8 : Byte) (s : State) : StepOutcome :=
  straight (.sbcIzx zp8) (accumulate sbcResult (.indexedIndirect zp8)) s

/-- `SBC $nn`, opcode 0xE5 (R153). -/
def execSbcZp (zp8 : Byte) (s : State) : StepOutcome :=
  straight (.sbcZp zp8) (accumulate sbcResult (.zeroPage zp8)) s

/-- `SBC #$nn`, opcode 0xE9 (R153). -/
def execSbcImm (imm8 : Byte) (s : State) : StepOutcome :=
  straight (.sbcImm imm8) (accumulate sbcResult (.immediate imm8)) s

/-- `SBC $nnnn`, opcode 0xED (R153). -/
def execSbcAbs (addr16 : Addr) (s : State) : StepOutcome :=
  straight (.sbcAbs addr16) (accumulate sbcResult (.absolute addr16)) s

/-- `SBC ($nn),Y`, opcode 0xF1 (R153). -/
def execSbcIzy (zp8 : Byte) (s : State) : StepOutcome :=
  straight (.sbcIzy zp8) (accumulate sbcResult (.indirectIndexed zp8)) s

/-- `SBC $nn,X`, opcode 0xF5 (R153). -/
def execSbcZpx (zp8 : Byte) (s : State) : StepOutcome :=
  straight (.sbcZpx zp8) (accumulate sbcResult (.zeroPageX zp8)) s

/-- `SBC $nnnn,Y`, opcode 0xF9 (R153). -/
def execSbcAby (addr16 : Addr) (s : State) : StepOutcome :=
  straight (.sbcAby addr16) (accumulate sbcResult (.absoluteY addr16)) s

/-- `SBC $nnnn,X`, opcode 0xFD (R153). -/
def execSbcAbx (addr16 : Addr) (s : State) : StepOutcome :=
  straight (.sbcAbx addr16) (accumulate sbcResult (.absoluteX addr16)) s

/-- `AND ($nn,X)`, opcode 0x21 (R155). -/
def execAndIzx (zp8 : Byte) (s : State) : StepOutcome :=
  straight (.andIzx zp8) (accumulate andResult (.indexedIndirect zp8)) s

/-- `AND $nn`, opcode 0x25 (R155). -/
def execAndZp (zp8 : Byte) (s : State) : StepOutcome :=
  straight (.andZp zp8) (accumulate andResult (.zeroPage zp8)) s

/-- `AND #$nn`, opcode 0x29 (R155). -/
def execAndImm (imm8 : Byte) (s : State) : StepOutcome :=
  straight (.andImm imm8) (accumulate andResult (.immediate imm8)) s

/-- `AND $nnnn`, opcode 0x2D (R155). -/
def execAndAbs (addr16 : Addr) (s : State) : StepOutcome :=
  straight (.andAbs addr16) (accumulate andResult (.absolute addr16)) s

/-- `AND ($nn),Y`, opcode 0x31 (R155). -/
def execAndIzy (zp8 : Byte) (s : State) : StepOutcome :=
  straight (.andIzy zp8) (accumulate andResult (.indirectIndexed zp8)) s

/-- `AND $nn,X`, opcode 0x35 (R155). -/
def execAndZpx (zp8 : Byte) (s : State) : StepOutcome :=
  straight (.andZpx zp8) (accumulate andResult (.zeroPageX zp8)) s

/-- `AND $nnnn,Y`, opcode 0x39 (R155). -/
def execAndAby (addr16 : Addr) (s : State) : StepOutcome :=
  straight (.andAby addr16) (accumulate andResult (.absoluteY addr16)) s

/-- `AND $nnnn,X`, opcode 0x3D (R155). -/
def execAndAbx (addr16 : Addr) (s : State) : StepOutcome :=
  straight (.andAbx addr16) (accumulate andResult (.absoluteX addr16)) s

/-- `ORA ($nn,X)`, opcode 0x01 (R156). -/
def execOraIzx (zp8 : Byte) (s : State) : StepOutcome :=
  straight (.oraIzx zp8) (accumulate oraResult (.indexedIndirect zp8)) s

/-- `ORA $nn`, opcode 0x05 (R156). -/
def execOraZp (zp8 : Byte) (s : State) : StepOutcome :=
  straight (.oraZp zp8) (accumulate oraResult (.zeroPage zp8)) s

/-- `ORA #$nn`, opcode 0x09 (R156). -/
def execOraImm (imm8 : Byte) (s : State) : StepOutcome :=
  straight (.oraImm imm8) (accumulate oraResult (.immediate imm8)) s

/-- `ORA $nnnn`, opcode 0x0D (R156). -/
def execOraAbs (addr16 : Addr) (s : State) : StepOutcome :=
  straight (.oraAbs addr16) (accumulate oraResult (.absolute addr16)) s

/-- `ORA ($nn),Y`, opcode 0x11 (R156). -/
def execOraIzy (zp8 : Byte) (s : State) : StepOutcome :=
  straight (.oraIzy zp8) (accumulate oraResult (.indirectIndexed zp8)) s

/-- `ORA $nn,X`, opcode 0x15 (R156). -/
def execOraZpx (zp8 : Byte) (s : State) : StepOutcome :=
  straight (.oraZpx zp8) (accumulate oraResult (.zeroPageX zp8)) s

/-- `ORA $nnnn,Y`, opcode 0x19 (R156). -/
def execOraAby (addr16 : Addr) (s : State) : StepOutcome :=
  straight (.oraAby addr16) (accumulate oraResult (.absoluteY addr16)) s

/-- `ORA $nnnn,X`, opcode 0x1D (R156). -/
def execOraAbx (addr16 : Addr) (s : State) : StepOutcome :=
  straight (.oraAbx addr16) (accumulate oraResult (.absoluteX addr16)) s

/-- `EOR ($nn,X)`, opcode 0x41 (R157). -/
def execEorIzx (zp8 : Byte) (s : State) : StepOutcome :=
  straight (.eorIzx zp8) (accumulate eorResult (.indexedIndirect zp8)) s

/-- `EOR $nn`, opcode 0x45 (R157). -/
def execEorZp (zp8 : Byte) (s : State) : StepOutcome :=
  straight (.eorZp zp8) (accumulate eorResult (.zeroPage zp8)) s

/-- `EOR #$nn`, opcode 0x49 (R157). -/
def execEorImm (imm8 : Byte) (s : State) : StepOutcome :=
  straight (.eorImm imm8) (accumulate eorResult (.immediate imm8)) s

/-- `EOR $nnnn`, opcode 0x4D (R157). -/
def execEorAbs (addr16 : Addr) (s : State) : StepOutcome :=
  straight (.eorAbs addr16) (accumulate eorResult (.absolute addr16)) s

/-- `EOR ($nn),Y`, opcode 0x51 (R157). -/
def execEorIzy (zp8 : Byte) (s : State) : StepOutcome :=
  straight (.eorIzy zp8) (accumulate eorResult (.indirectIndexed zp8)) s

/-- `EOR $nn,X`, opcode 0x55 (R157). -/
def execEorZpx (zp8 : Byte) (s : State) : StepOutcome :=
  straight (.eorZpx zp8) (accumulate eorResult (.zeroPageX zp8)) s

/-- `EOR $nnnn,Y`, opcode 0x59 (R157). -/
def execEorAby (addr16 : Addr) (s : State) : StepOutcome :=
  straight (.eorAby addr16) (accumulate eorResult (.absoluteY addr16)) s

/-- `EOR $nnnn,X`, opcode 0x5D (R157). -/
def execEorAbx (addr16 : Addr) (s : State) : StepOutcome :=
  straight (.eorAbx addr16) (accumulate eorResult (.absoluteX addr16)) s

/-- `CMP ($nn,X)`, opcode 0xC1 (R159). -/
def execCmpIzx (zp8 : Byte) (s : State) : StepOutcome :=
  straight (.cmpIzx zp8) (compareReg .a (.indexedIndirect zp8)) s

/-- `CMP $nn`, opcode 0xC5 (R159). -/
def execCmpZp (zp8 : Byte) (s : State) : StepOutcome :=
  straight (.cmpZp zp8) (compareReg .a (.zeroPage zp8)) s

/-- `CMP #$nn`, opcode 0xC9 (R159). -/
def execCmpImm (imm8 : Byte) (s : State) : StepOutcome :=
  straight (.cmpImm imm8) (compareReg .a (.immediate imm8)) s

/-- `CMP $nnnn`, opcode 0xCD (R159). -/
def execCmpAbs (addr16 : Addr) (s : State) : StepOutcome :=
  straight (.cmpAbs addr16) (compareReg .a (.absolute addr16)) s

/-- `CMP ($nn),Y`, opcode 0xD1 (R159). -/
def execCmpIzy (zp8 : Byte) (s : State) : StepOutcome :=
  straight (.cmpIzy zp8) (compareReg .a (.indirectIndexed zp8)) s

/-- `CMP $nn,X`, opcode 0xD5 (R159). -/
def execCmpZpx (zp8 : Byte) (s : State) : StepOutcome :=
  straight (.cmpZpx zp8) (compareReg .a (.zeroPageX zp8)) s

/-- `CMP $nnnn,Y`, opcode 0xD9 (R159). -/
def execCmpAby (addr16 : Addr) (s : State) : StepOutcome :=
  straight (.cmpAby addr16) (compareReg .a (.absoluteY addr16)) s

/-- `CMP $nnnn,X`, opcode 0xDD (R159). -/
def execCmpAbx (addr16 : Addr) (s : State) : StepOutcome :=
  straight (.cmpAbx addr16) (compareReg .a (.absoluteX addr16)) s

/-- `CPX #$nn`, opcode 0xE0 (R160). -/
def execCpxImm (imm8 : Byte) (s : State) : StepOutcome :=
  straight (.cpxImm imm8) (compareReg .x (.immediate imm8)) s

/-- `CPX $nn`, opcode 0xE4 (R160). -/
def execCpxZp (zp8 : Byte) (s : State) : StepOutcome :=
  straight (.cpxZp zp8) (compareReg .x (.zeroPage zp8)) s

/-- `CPX $nnnn`, opcode 0xEC (R160). -/
def execCpxAbs (addr16 : Addr) (s : State) : StepOutcome :=
  straight (.cpxAbs addr16) (compareReg .x (.absolute addr16)) s

/-- `CPY #$nn`, opcode 0xC0 (R161). -/
def execCpyImm (imm8 : Byte) (s : State) : StepOutcome :=
  straight (.cpyImm imm8) (compareReg .y (.immediate imm8)) s

/-- `CPY $nn`, opcode 0xC4 (R161). -/
def execCpyZp (zp8 : Byte) (s : State) : StepOutcome :=
  straight (.cpyZp zp8) (compareReg .y (.zeroPage zp8)) s

/-- `CPY $nnnn`, opcode 0xCC (R161). -/
def execCpyAbs (addr16 : Addr) (s : State) : StepOutcome :=
  straight (.cpyAbs addr16) (compareReg .y (.absolute addr16)) s

/-- `BIT $nn`, opcode 0x24 (R162). -/
def execBitZp (zp8 : Byte) (s : State) : StepOutcome :=
  straight (.bitZp zp8) (bitTest (.zeroPage zp8)) s

/-- `BIT $nnnn`, opcode 0x2C (R162). -/
def execBitAbs (addr16 : Addr) (s : State) : StepOutcome :=
  straight (.bitAbs addr16) (bitTest (.absolute addr16)) s

/-- `INC $nn`, opcode 0xE6 (R163). -/
def execIncZp (zp8 : Byte) (s : State) : StepOutcome :=
  straight (.incZp zp8) (modifyMem increment (.zeroPage zp8)) s

/-- `INC $nnnn`, opcode 0xEE (R163). -/
def execIncAbs (addr16 : Addr) (s : State) : StepOutcome :=
  straight (.incAbs addr16) (modifyMem increment (.absolute addr16)) s

/-- `INC $nn,X`, opcode 0xF6 (R163). -/
def execIncZpx (zp8 : Byte) (s : State) : StepOutcome :=
  straight (.incZpx zp8) (modifyMem increment (.zeroPageX zp8)) s

/-- `INC $nnnn,X`, opcode 0xFE (R163). -/
def execIncAbx (addr16 : Addr) (s : State) : StepOutcome :=
  straight (.incAbx addr16) (modifyMem increment (.absoluteX addr16)) s

/-- `DEC $nn`, opcode 0xC6 (R164). -/
def execDecZp (zp8 : Byte) (s : State) : StepOutcome :=
  straight (.decZp zp8) (modifyMem decrement (.zeroPage zp8)) s

/-- `DEC $nnnn`, opcode 0xCE (R164). -/
def execDecAbs (addr16 : Addr) (s : State) : StepOutcome :=
  straight (.decAbs addr16) (modifyMem decrement (.absolute addr16)) s

/-- `DEC $nn,X`, opcode 0xD6 (R164). -/
def execDecZpx (zp8 : Byte) (s : State) : StepOutcome :=
  straight (.decZpx zp8) (modifyMem decrement (.zeroPageX zp8)) s

/-- `DEC $nnnn,X`, opcode 0xDE (R164). -/
def execDecAbx (addr16 : Addr) (s : State) : StepOutcome :=
  straight (.decAbx addr16) (modifyMem decrement (.absoluteX addr16)) s

/-- `INX`, opcode 0xE8 (R165). -/
def execInx (s : State) : StepOutcome :=
  straight .inx (modifyReg increment .x) s

/-- `INY`, opcode 0xC8 (R166). -/
def execIny (s : State) : StepOutcome :=
  straight .iny (modifyReg increment .y) s

/-- `DEX`, opcode 0xCA (R167). -/
def execDex (s : State) : StepOutcome :=
  straight .dex (modifyReg decrement .x) s

/-- `DEY`, opcode 0x88 (R168). -/
def execDey (s : State) : StepOutcome :=
  straight .dey (modifyReg decrement .y) s

end Sys2Proof.Machine
end

