-- ==== Sys2Proof/Machine/Control.lean ====
section
/-! DEFINITION. Branches, jumps and subroutines (43_control_transfer.md R190-R201). They set PC by their own rule. -/

namespace Sys2Proof.Machine

/-- A conditional branch (R190; target 30_encoding.md R116; extras R119): the target is computed, and can be out of
range, only when taken. -/
def branch (base : Nat) (cond : Flags → Bool) (off8 : Byte) : Exec Unit := do
  let pc ← getPc
  let next ← addr16 (pc.toNat + 2)
  let f ← getFlags
  if cond f then
    let t ← addr16 (next.toNat + sext8 off8)
    addCycles (base + 1 + (if hiByte t ≠ hiByte next then 1 else 0))
    setPc t
  else
    addCycles base
    setPc next

/-- JMP (R199): the effective address is the target, for both modes. -/
def jump (base : Nat) (mode : AddrMode) : Exec Unit := do
  let t ← ea mode
  setPc t
  addCycles base

/-- JSR (R200): pushes the address of its own last byte. -/
def jumpSubroutine (base : Nat) (target : Addr) : Exec Unit := do
  let pc ← getPc
  let ret ← addr16 (pc.toNat + 2)
  push16 ret
  setPc target
  addCycles base

/-- RTS (R201): the pulled address plus one. -/
def returnSubroutine (base : Nat) : Exec Unit := do
  let t ← pull16
  let target ← addr16 (t.toNat + 1)
  setPc target
  addCycles base

/-- `BCC target`, opcode 0x90 (R191). -/
def execBccRel (off8 : Byte) (s : State) : StepOutcome :=
  perform (.bccRel off8) (branch (Instr.bccRel off8).baseCycles (fun f => !f.c) off8) s

/-- `BCS target`, opcode 0xB0 (R192). -/
def execBcsRel (off8 : Byte) (s : State) : StepOutcome :=
  perform (.bcsRel off8) (branch (Instr.bcsRel off8).baseCycles (fun f => f.c) off8) s

/-- `BEQ target`, opcode 0xF0 (R193). -/
def execBeqRel (off8 : Byte) (s : State) : StepOutcome :=
  perform (.beqRel off8) (branch (Instr.beqRel off8).baseCycles (fun f => f.z) off8) s

/-- `BNE target`, opcode 0xD0 (R194). -/
def execBneRel (off8 : Byte) (s : State) : StepOutcome :=
  perform (.bneRel off8) (branch (Instr.bneRel off8).baseCycles (fun f => !f.z) off8) s

/-- `BMI target`, opcode 0x30 (R195). -/
def execBmiRel (off8 : Byte) (s : State) : StepOutcome :=
  perform (.bmiRel off8) (branch (Instr.bmiRel off8).baseCycles (fun f => f.n) off8) s

/-- `BPL target`, opcode 0x10 (R196). -/
def execBplRel (off8 : Byte) (s : State) : StepOutcome :=
  perform (.bplRel off8) (branch (Instr.bplRel off8).baseCycles (fun f => !f.n) off8) s

/-- `BVC target`, opcode 0x50 (R197). -/
def execBvcRel (off8 : Byte) (s : State) : StepOutcome :=
  perform (.bvcRel off8) (branch (Instr.bvcRel off8).baseCycles (fun f => !f.v) off8) s

/-- `BVS target`, opcode 0x70 (R198). -/
def execBvsRel (off8 : Byte) (s : State) : StepOutcome :=
  perform (.bvsRel off8) (branch (Instr.bvsRel off8).baseCycles (fun f => f.v) off8) s

/-- `JMP $nnnn`, opcode 0x4C (R199). -/
def execJmpAbs (addr16 : Addr) (s : State) : StepOutcome :=
  perform (.jmpAbs addr16) (jump (Instr.jmpAbs addr16).baseCycles (.absolute addr16)) s

/-- `JMP ($nnnn)`, opcode 0x6C (R199). -/
def execJmpInd (ptr16 : Addr) (s : State) : StepOutcome :=
  perform (.jmpInd ptr16) (jump (Instr.jmpInd ptr16).baseCycles (.indirect ptr16)) s

/-- `JSR $nnnn`, opcode 0x20 (R200). -/
def execJsrAbs (addr16 : Addr) (s : State) : StepOutcome :=
  perform (.jsrAbs addr16) (jumpSubroutine (Instr.jsrAbs addr16).baseCycles addr16) s

/-- `RTS`, opcode 0x60 (R201). -/
def execRts (s : State) : StepOutcome :=
  perform .rts (returnSubroutine Instr.rts.baseCycles) s

end Sys2Proof.Machine
end

