-- ==== Sys2Proof/Machine/LoadStore.lean ====
section
/-! DEFINITION. Loads, stores and register transfers (40_load_store_transfer.md R131-R142). -/

namespace Sys2Proof.Machine

/-- LDA, LDX, LDY (R131-R133): `v <- Operand(mode); reg <- v; SetNZ(v)`. -/
def load (r : Reg) (mode : AddrMode) : Exec Unit := do
  let v ← operand mode
  setReg r v
  updateFlags (setNZ v)

/-- STA, STX, STY (R134-R136): `a <- EA(mode); MemWrite(a, 1, reg)`. The store reads no memory at `a`. -/
def store (r : Reg) (mode : AddrMode) : Exec Unit := do
  let a ← ea mode
  let v ← getReg r
  memWrite a v

/-- TAX, TAY, TXA, TYA, TSX (R137-R141): `dst <- src; SetNZ(dst)`. -/
def transfer (src dst : Reg) : Exec Unit := do
  let v ← getReg src
  setReg dst v
  updateFlags (setNZ v)

/-- TXS (R142): `SP <- X`, the only transfer that writes no flag. -/
def transferXToSp : Exec Unit := do
  let v ← getReg .x
  setReg .sp v

/-- `LDA ($nn,X)`, opcode 0xA1 (R131). -/
def execLdaIzx (zp8 : Byte) (s : State) : StepOutcome :=
  straight (.ldaIzx zp8) (load .a (.indexedIndirect zp8)) s

/-- `LDA $nn`, opcode 0xA5 (R131). -/
def execLdaZp (zp8 : Byte) (s : State) : StepOutcome :=
  straight (.ldaZp zp8) (load .a (.zeroPage zp8)) s

/-- `LDA #$nn`, opcode 0xA9 (R131). -/
def execLdaImm (imm8 : Byte) (s : State) : StepOutcome :=
  straight (.ldaImm imm8) (load .a (.immediate imm8)) s

/-- `LDA $nnnn`, opcode 0xAD (R131). -/
def execLdaAbs (addr16 : Addr) (s : State) : StepOutcome :=
  straight (.ldaAbs addr16) (load .a (.absolute addr16)) s

/-- `LDA ($nn),Y`, opcode 0xB1 (R131). -/
def execLdaIzy (zp8 : Byte) (s : State) : StepOutcome :=
  straight (.ldaIzy zp8) (load .a (.indirectIndexed zp8)) s

/-- `LDA $nn,X`, opcode 0xB5 (R131). -/
def execLdaZpx (zp8 : Byte) (s : State) : StepOutcome :=
  straight (.ldaZpx zp8) (load .a (.zeroPageX zp8)) s

/-- `LDA $nnnn,Y`, opcode 0xB9 (R131). -/
def execLdaAby (addr16 : Addr) (s : State) : StepOutcome :=
  straight (.ldaAby addr16) (load .a (.absoluteY addr16)) s

/-- `LDA $nnnn,X`, opcode 0xBD (R131). -/
def execLdaAbx (addr16 : Addr) (s : State) : StepOutcome :=
  straight (.ldaAbx addr16) (load .a (.absoluteX addr16)) s

/-- `LDX #$nn`, opcode 0xA2 (R132). -/
def execLdxImm (imm8 : Byte) (s : State) : StepOutcome :=
  straight (.ldxImm imm8) (load .x (.immediate imm8)) s

/-- `LDX $nn`, opcode 0xA6 (R132). -/
def execLdxZp (zp8 : Byte) (s : State) : StepOutcome :=
  straight (.ldxZp zp8) (load .x (.zeroPage zp8)) s

/-- `LDX $nnnn`, opcode 0xAE (R132). -/
def execLdxAbs (addr16 : Addr) (s : State) : StepOutcome :=
  straight (.ldxAbs addr16) (load .x (.absolute addr16)) s

/-- `LDX $nn,Y`, opcode 0xB6 (R132). -/
def execLdxZpy (zp8 : Byte) (s : State) : StepOutcome :=
  straight (.ldxZpy zp8) (load .x (.zeroPageY zp8)) s

/-- `LDX $nnnn,Y`, opcode 0xBE (R132). -/
def execLdxAby (addr16 : Addr) (s : State) : StepOutcome :=
  straight (.ldxAby addr16) (load .x (.absoluteY addr16)) s

/-- `LDY #$nn`, opcode 0xA0 (R133). -/
def execLdyImm (imm8 : Byte) (s : State) : StepOutcome :=
  straight (.ldyImm imm8) (load .y (.immediate imm8)) s

/-- `LDY $nn`, opcode 0xA4 (R133). -/
def execLdyZp (zp8 : Byte) (s : State) : StepOutcome :=
  straight (.ldyZp zp8) (load .y (.zeroPage zp8)) s

/-- `LDY $nnnn`, opcode 0xAC (R133). -/
def execLdyAbs (addr16 : Addr) (s : State) : StepOutcome :=
  straight (.ldyAbs addr16) (load .y (.absolute addr16)) s

/-- `LDY $nn,X`, opcode 0xB4 (R133). -/
def execLdyZpx (zp8 : Byte) (s : State) : StepOutcome :=
  straight (.ldyZpx zp8) (load .y (.zeroPageX zp8)) s

/-- `LDY $nnnn,X`, opcode 0xBC (R133). -/
def execLdyAbx (addr16 : Addr) (s : State) : StepOutcome :=
  straight (.ldyAbx addr16) (load .y (.absoluteX addr16)) s

/-- `STA ($nn,X)`, opcode 0x81 (R134). -/
def execStaIzx (zp8 : Byte) (s : State) : StepOutcome :=
  straight (.staIzx zp8) (store .a (.indexedIndirect zp8)) s

/-- `STA $nn`, opcode 0x85 (R134). -/
def execStaZp (zp8 : Byte) (s : State) : StepOutcome :=
  straight (.staZp zp8) (store .a (.zeroPage zp8)) s

/-- `STA $nnnn`, opcode 0x8D (R134). -/
def execStaAbs (addr16 : Addr) (s : State) : StepOutcome :=
  straight (.staAbs addr16) (store .a (.absolute addr16)) s

/-- `STA ($nn),Y`, opcode 0x91 (R134). -/
def execStaIzy (zp8 : Byte) (s : State) : StepOutcome :=
  straight (.staIzy zp8) (store .a (.indirectIndexed zp8)) s

/-- `STA $nn,X`, opcode 0x95 (R134). -/
def execStaZpx (zp8 : Byte) (s : State) : StepOutcome :=
  straight (.staZpx zp8) (store .a (.zeroPageX zp8)) s

/-- `STA $nnnn,Y`, opcode 0x99 (R134). -/
def execStaAby (addr16 : Addr) (s : State) : StepOutcome :=
  straight (.staAby addr16) (store .a (.absoluteY addr16)) s

/-- `STA $nnnn,X`, opcode 0x9D (R134). -/
def execStaAbx (addr16 : Addr) (s : State) : StepOutcome :=
  straight (.staAbx addr16) (store .a (.absoluteX addr16)) s

/-- `STX $nn`, opcode 0x86 (R135). -/
def execStxZp (zp8 : Byte) (s : State) : StepOutcome :=
  straight (.stxZp zp8) (store .x (.zeroPage zp8)) s

/-- `STX $nnnn`, opcode 0x8E (R135). -/
def execStxAbs (addr16 : Addr) (s : State) : StepOutcome :=
  straight (.stxAbs addr16) (store .x (.absolute addr16)) s

/-- `STX $nn,Y`, opcode 0x96 (R135). -/
def execStxZpy (zp8 : Byte) (s : State) : StepOutcome :=
  straight (.stxZpy zp8) (store .x (.zeroPageY zp8)) s

/-- `STY $nn`, opcode 0x84 (R136). -/
def execStyZp (zp8 : Byte) (s : State) : StepOutcome :=
  straight (.styZp zp8) (store .y (.zeroPage zp8)) s

/-- `STY $nnnn`, opcode 0x8C (R136). -/
def execStyAbs (addr16 : Addr) (s : State) : StepOutcome :=
  straight (.styAbs addr16) (store .y (.absolute addr16)) s

/-- `STY $nn,X`, opcode 0x94 (R136). -/
def execStyZpx (zp8 : Byte) (s : State) : StepOutcome :=
  straight (.styZpx zp8) (store .y (.zeroPageX zp8)) s

/-- `TAX`, opcode 0xAA (R137). -/
def execTax (s : State) : StepOutcome :=
  straight .tax (transfer .a .x) s

/-- `TAY`, opcode 0xA8 (R138). -/
def execTay (s : State) : StepOutcome :=
  straight .tay (transfer .a .y) s

/-- `TXA`, opcode 0x8A (R139). -/
def execTxa (s : State) : StepOutcome :=
  straight .txa (transfer .x .a) s

/-- `TYA`, opcode 0x98 (R140). -/
def execTya (s : State) : StepOutcome :=
  straight .tya (transfer .y .a) s

/-- `TSX`, opcode 0xBA (R141). -/
def execTsx (s : State) : StepOutcome :=
  straight .tsx (transfer .sp .x) s

/-- `TXS`, opcode 0x9A (R142). -/
def execTxs (s : State) : StepOutcome :=
  straight .txs transferXToSp s

end Sys2Proof.Machine
end

