-- ==== Sys2Proof/Machine/Shift.lean ====
section
/-! DEFINITION. Shifts and rotates (42_shift_rotate.md R180-R184). -/

namespace Sys2Proof.Machine

/-- The accumulator form of R180: `(r, c) <- f(A, C); A <- r; C <- c; SetNZ(r)`. -/
def shiftAcc (op : Shift) : Exec Unit := do
  let v ← getReg .a
  let f ← getFlags
  setReg .a (op.byte v f.c)
  updateFlags (shiftFlags op v)

/-- The memory form of R180: one read, one write at the same address, then the flags. -/
def shiftMem (op : Shift) (mode : AddrMode) : Exec Unit := do
  let a ← ea mode
  let v ← memRead a
  let f ← getFlags
  memWrite a (op.byte v f.c)
  updateFlags (shiftFlags op v)

/-- `ASL $nn`, opcode 0x06 (R181). -/
def execAslZp (zp8 : Byte) (s : State) : StepOutcome :=
  straight (.aslZp zp8) (shiftMem .asl (.zeroPage zp8)) s

/-- `ASL A`, opcode 0x0A (R181). -/
def execAslAcc (s : State) : StepOutcome :=
  straight .aslAcc (shiftAcc .asl) s

/-- `ASL $nnnn`, opcode 0x0E (R181). -/
def execAslAbs (addr16 : Addr) (s : State) : StepOutcome :=
  straight (.aslAbs addr16) (shiftMem .asl (.absolute addr16)) s

/-- `ASL $nn,X`, opcode 0x16 (R181). -/
def execAslZpx (zp8 : Byte) (s : State) : StepOutcome :=
  straight (.aslZpx zp8) (shiftMem .asl (.zeroPageX zp8)) s

/-- `ASL $nnnn,X`, opcode 0x1E (R181). -/
def execAslAbx (addr16 : Addr) (s : State) : StepOutcome :=
  straight (.aslAbx addr16) (shiftMem .asl (.absoluteX addr16)) s

/-- `LSR $nn`, opcode 0x46 (R182). -/
def execLsrZp (zp8 : Byte) (s : State) : StepOutcome :=
  straight (.lsrZp zp8) (shiftMem .lsr (.zeroPage zp8)) s

/-- `LSR A`, opcode 0x4A (R182). -/
def execLsrAcc (s : State) : StepOutcome :=
  straight .lsrAcc (shiftAcc .lsr) s

/-- `LSR $nnnn`, opcode 0x4E (R182). -/
def execLsrAbs (addr16 : Addr) (s : State) : StepOutcome :=
  straight (.lsrAbs addr16) (shiftMem .lsr (.absolute addr16)) s

/-- `LSR $nn,X`, opcode 0x56 (R182). -/
def execLsrZpx (zp8 : Byte) (s : State) : StepOutcome :=
  straight (.lsrZpx zp8) (shiftMem .lsr (.zeroPageX zp8)) s

/-- `LSR $nnnn,X`, opcode 0x5E (R182). -/
def execLsrAbx (addr16 : Addr) (s : State) : StepOutcome :=
  straight (.lsrAbx addr16) (shiftMem .lsr (.absoluteX addr16)) s

/-- `ROL $nn`, opcode 0x26 (R183). -/
def execRolZp (zp8 : Byte) (s : State) : StepOutcome :=
  straight (.rolZp zp8) (shiftMem .rol (.zeroPage zp8)) s

/-- `ROL A`, opcode 0x2A (R183). -/
def execRolAcc (s : State) : StepOutcome :=
  straight .rolAcc (shiftAcc .rol) s

/-- `ROL $nnnn`, opcode 0x2E (R183). -/
def execRolAbs (addr16 : Addr) (s : State) : StepOutcome :=
  straight (.rolAbs addr16) (shiftMem .rol (.absolute addr16)) s

/-- `ROL $nn,X`, opcode 0x36 (R183). -/
def execRolZpx (zp8 : Byte) (s : State) : StepOutcome :=
  straight (.rolZpx zp8) (shiftMem .rol (.zeroPageX zp8)) s

/-- `ROL $nnnn,X`, opcode 0x3E (R183). -/
def execRolAbx (addr16 : Addr) (s : State) : StepOutcome :=
  straight (.rolAbx addr16) (shiftMem .rol (.absoluteX addr16)) s

/-- `ROR $nn`, opcode 0x66 (R184). -/
def execRorZp (zp8 : Byte) (s : State) : StepOutcome :=
  straight (.rorZp zp8) (shiftMem .ror (.zeroPage zp8)) s

/-- `ROR A`, opcode 0x6A (R184). -/
def execRorAcc (s : State) : StepOutcome :=
  straight .rorAcc (shiftAcc .ror) s

/-- `ROR $nnnn`, opcode 0x6E (R184). -/
def execRorAbs (addr16 : Addr) (s : State) : StepOutcome :=
  straight (.rorAbs addr16) (shiftMem .ror (.absolute addr16)) s

/-- `ROR $nn,X`, opcode 0x76 (R184). -/
def execRorZpx (zp8 : Byte) (s : State) : StepOutcome :=
  straight (.rorZpx zp8) (shiftMem .ror (.zeroPageX zp8)) s

/-- `ROR $nnnn,X`, opcode 0x7E (R184). -/
def execRorAbx (addr16 : Addr) (s : State) : StepOutcome :=
  straight (.rorAbx addr16) (shiftMem .ror (.absoluteX addr16)) s

end Sys2Proof.Machine
end

