-- ==== Sys2Proof/Machine/System.lean ====
section
/-! DEFINITION. Stack, flag control and system instructions (44_stack_flags_system.md R210-R223). -/

namespace Sys2Proof.Machine

/-- PHA (R210): `Push(A)`. -/
def pushA : Exec Unit := do
  let v ← getReg .a
  push v

/-- PHP (R211): `Push(P(1))`. -/
def pushStatus : Exec Unit := do
  let f ← getFlags
  push (statusByte true f)

/-- PLA (R212): `A <- Pull(); SetNZ(A)`. -/
def pullA : Exec Unit := do
  let v ← pull
  setReg .a v
  updateFlags (setNZ v)

/-- PLP (R213): the six flags from a pulled status byte. -/
def pullStatus : Exec Unit := do
  let s ← pull
  updateFlags (pulledFlags s)

/-- BRK (R222): the shared entry with return address PC + 2, status `P(1)` and the IRQ/BRK vector. -/
def breakInterrupt (base : Nat) : Exec Unit := do
  let pc ← getPc
  let ret ← addr16 (pc.toNat + 2)
  enterInterrupt ret true Config.breakLocation
  addCycles base

/-- RTI (R223): the shared return. -/
def returnInterrupt (base : Nat) : Exec Unit := do
  returnFromInterrupt
  addCycles base

/-- `PHA`, opcode 0x48 (R210). -/
def execPha (s : State) : StepOutcome :=
  straight .pha pushA s

/-- `PHP`, opcode 0x08 (R211). -/
def execPhp (s : State) : StepOutcome :=
  straight .php pushStatus s

/-- `PLA`, opcode 0x68 (R212). -/
def execPla (s : State) : StepOutcome :=
  straight .pla pullA s

/-- `PLP`, opcode 0x28 (R213). -/
def execPlp (s : State) : StepOutcome :=
  straight .plp pullStatus s

/-- `CLC`, opcode 0x18 (R214). -/
def execClc (s : State) : StepOutcome :=
  straight .clc (updateFlags fun f => { f with c := false }) s

/-- `SEC`, opcode 0x38 (R215). -/
def execSec (s : State) : StepOutcome :=
  straight .sec (updateFlags fun f => { f with c := true }) s

/-- `CLI`, opcode 0x58 (R216). -/
def execCli (s : State) : StepOutcome :=
  straight .cli (updateFlags fun f => { f with i := false }) s

/-- `SEI`, opcode 0x78 (R217). -/
def execSei (s : State) : StepOutcome :=
  straight .sei (updateFlags fun f => { f with i := true }) s

/-- `CLD`, opcode 0xD8 (R218). -/
def execCld (s : State) : StepOutcome :=
  straight .cld (updateFlags fun f => { f with d := false }) s

/-- `SED`, opcode 0xF8 (R219). -/
def execSed (s : State) : StepOutcome :=
  straight .sed (updateFlags fun f => { f with d := true }) s

/-- `CLV`, opcode 0xB8 (R220). -/
def execClv (s : State) : StepOutcome :=
  straight .clv (updateFlags fun f => { f with v := false }) s

/-- `NOP`, opcode 0xEA (R221). -/
def execNop (s : State) : StepOutcome :=
  straight .nop (pure ()) s

/-- `BRK`, opcode 0x00 (R222). -/
def execBrk (s : State) : StepOutcome :=
  perform .brk (breakInterrupt Instr.brk.baseCycles) s

/-- `RTI`, opcode 0x40 (R223). -/
def execRti (s : State) : StepOutcome :=
  perform .rti (returnInterrupt Instr.rti.baseCycles) s

end Sys2Proof.Machine
end

