-- ==== Sys2Proof/Machine/Fetch.lean ====
section
/-! DEFINITION. Instruction fetch: the opcode byte, the operand bytes, the decoder (30_encoding.md R102; 60_exceptions.md
R258). -/

namespace Sys2Proof.Machine

/-- What the fetch gives. -/
inductive Fetched where
  /-- A decoded instruction. -/
  | instr (i : Instr)
  /-- The fetch raised a fault; the opcode byte is there if it was fetched. -/
  | raised (k : FaultKind) (opcode : Option Byte)
deriving DecidableEq, Repr

/-- The `n` operand bytes at PC+1 and PC+2, in that order (00_scope.md R12; 20_memory.md R85). -/
def fetchOperands (pc : Addr) : Nat → Exec (List Byte)
  | 0 => pure []
  | 1 => do
    let p1 ← addr16 (pc.toNat + 1)
    let b1 ← memRead p1
    pure [b1]
  | _ => do
    let p1 ← addr16 (pc.toNat + 1)
    let b1 ← memRead p1
    let p2 ← addr16 (pc.toNat + 2)
    let b2 ← memRead p2
    pure [b1, b2]

/-- Fetches and decodes the instruction at PC. An illegal opcode is raised before any operand is read
(60_exceptions.md R241); an operand address outside the space raises OutOfRange (30_encoding.md R105). No read changes
the state, so the fetch leaves it as it was. -/
def fetch (s : State) : Fetched :=
  match (memRead s.pc).run s with
  | .error k _ => .raised k none
  | .ok op _ =>
    match opcodeLength op with
    | none => .raised (.illegalOpcode op s.pc) (some op)
    | some n =>
      match (fetchOperands s.pc (n - 1)).run s with
      | .error k _ => .raised k (some op)
      | .ok bs _ =>
        match decode (op :: bs) with
        | .instr i _ => .instr i
        | .illegalOpcode _ => .raised (.illegalOpcode op s.pc) (some op)
        | .truncated => .raised (.illegalOpcode op s.pc) (some op)

end Sys2Proof.Machine
end

