-- ==== Sys2Proof/Machine/Timers.lean ====
section
/-! DEFINITION. The timers and the TimerManager (60_exceptions.md R290-R301). -/

namespace Sys2Proof.Machine

/-- InterruptState: a pair of request lines (60_exceptions.md R296). -/
structure InterruptState where
  irq : Bool
  nmi : Bool
deriving DecidableEq, Repr

/-- The identity `{false, false}` (R296). -/
def InterruptState.none : InterruptState := { irq := false, nmi := false }

/-- `a OR b` (R296). -/
def InterruptState.or (a b : InterruptState) : InterruptState := { irq := a.irq || b.irq, nmi := a.nmi || b.nmi }

/-- One tick of a running Timer 1 and whether it fired (R291). -/
def T1.tick (t : T1) : T1 × Bool :=
  if t.reloadPending then ({ t with counter := t.latch, reloadPending := false }, false)
  else if t.counter = 0 then ({ t with counter := 0xFFFF, reloadPending := true }, true)
  else ({ t with counter := t.counter - 1 }, false)

/-- `n` ticks of a running Timer 1 and whether any fired (R291: several firings within one call give one irq). -/
def T1.ticks : Nat → T1 → T1 × Bool
  | 0, t => (t, false)
  | n + 1, t => ((T1.ticks n t.tick.1).1, t.tick.2 || (T1.ticks n t.tick.1).2)

/-- Timer 1's bit of IFR and IER (R291). -/
def t1Bit : Byte := 0x40

/-- The frame timer's bit (CA1) of the System VIA's IFR and IER (R294). -/
def frameBit : Byte := 0x02

/-- Timer 1's `systemTick(t)` on the VIA that owns it (R291). -/
def Via.systemTick (via : Via) (t : Nat) : Via × InterruptState :=
  if via.t1.running then
    let r := T1.ticks t via.t1
    let via1 := { via with t1 := r.1 }
    let via2 := if r.2 then via1.flagSource t1Bit else via1
    (via2, { irq := r.2 && via.enabled t1Bit, nmi := false })
  else (via, .none)

/-- Timer 1's `availableTicks()` (R292). -/
def T1.availableTicks (t : T1) : Option Nat :=
  if t.running then some (if t.reloadPending then t.latch.toNat + 2 else t.counter.toNat + 1) else none

/-- `t` ticks of the frame timer from `remaining`: the new remaining, and the frame boundaries passed (R294). -/
def frameTicks : Nat → Nat → Nat × Nat
  | 0, remaining => (remaining, 0)
  | t + 1, remaining =>
    if remaining - 1 = 0 then ((frameTicks t Config.framePeriod).1, (frameTicks t Config.framePeriod).2 + 1)
    else frameTicks t (remaining - 1)

/-- The frame timer's `systemTick(t)` (R294): one repaint request a boundary, and with FRAME_IRQ = system_via_ca1 the
System VIA's CA1 flag. -/
def frameSystemTick (s : State) (t : Nat) : State × InterruptState :=
  let r := frameTicks t s.frameRemaining
  let s1 := { s with frameRemaining := r.1, repaintRequests := s.repaintRequests + r.2 }
  if s.cfg.frameIrq = .systemViaCa1 ∧ r.2 > 0 then
    ({ s1 with systemVia := s.systemVia.flagSource frameBit }, { irq := s.systemVia.enabled frameBit, nmi := false })
  else (s1, .none)

/-- `systemTick(t)` of the timer registered under a name (R290, R301). -/
def systemTick (tm : TimerName) (s : State) (t : Nat) : State × InterruptState :=
  match tm with
  | .systemViaT1 => ({ s with systemVia := (s.systemVia.systemTick t).1 }, (s.systemVia.systemTick t).2)
  | .userViaT1 => ({ s with userVia := (s.userVia.systemTick t).1 }, (s.userVia.systemTick t).2)
  | .frame => frameSystemTick s t

/-- `availableTicks()` of the timer registered under a name (R292, R295). -/
def availableTicks (tm : TimerName) (s : State) : Option Nat :=
  match tm with
  | .systemViaT1 => s.systemVia.t1.availableTicks
  | .userViaT1 => s.userVia.t1.availableTicks
  | .frame => some s.frameRemaining

/-- `registerTimer(timer)` (R297): a second registration under a name replaces the first. -/
def registerTimer (tm : TimerName) (s : State) : State :=
  { s with timers := if tm ∈ s.timers then s.timers else s.timers ++ [tm] }

/-- Ticks every timer of a list and folds the results with OR (R298). -/
def tickAll : List TimerName → Nat → State → State × InterruptState
  | [], _, s => (s, .none)
  | tm :: rest, t, s =>
    let r := systemTick tm s t
    let q := tickAll rest t r.1
    (q.1, r.2.or q.2)

/-- `cpuTick(n)` for n CPU cycles (R298). -/
def cpuTick (n : Nat) (s : State) : State × InterruptState :=
  let total := n + s.remainder
  let ticks := total / Config.clockRatio
  let s1 := { s with remainder := total % Config.clockRatio }
  if ticks = 0 ∨ s.timers = [] then (s1, .none) else tickAll s.timers ticks s1

/-- The least of the bounds that are given. -/
def leastBound : List (Option Nat) → Option Nat
  | [] => none
  | none :: rest => leastBound rest
  | some t :: rest =>
    match leastBound rest with
    | none => some t
    | some u => some (min t u)

/-- `availableCpuTicks()` (R299): the remainder is not subtracted. -/
def availableCpuTicks (s : State) : Option Nat :=
  (leastBound (s.timers.map fun tm => availableTicks tm s)).map (· * Config.clockRatio)

end Sys2Proof.Machine
end

