-- ==== Sys2Proof/Machine/RunLoop.lean ====
section
/-! DEFINITION. The interrupt check, the dispatch and the run loop around it (60_exceptions.md R250-R262). -/

namespace Sys2Proof.Machine

/-- `irqPending <- false` (60_exceptions.md R254). -/
def clearIrq : Exec Unit := fun s => .ok () { s with irqPending := false }

/-- `nmiPending <- false` (60_exceptions.md R255). -/
def clearNmi : Exec Unit := fun s => .ok () { s with nmiPending := false }

/-- IRQ entry (60_exceptions.md R254). -/
def irqEntry : Exec Unit := do
  let pc ← getPc
  enterInterrupt pc false Config.breakLocation
  clearIrq
  addCycles 7

/-- NMI entry (60_exceptions.md R255). -/
def nmiEntry : Exec Unit := do
  let pc ← getPc
  enterInterrupt pc false Config.nmiVector
  clearNmi
  addCycles 7

/-- Runs an interrupt entry; no opcode is fetched. -/
def performEntry (entry : Exec Unit) (s : State) : StepOutcome :=
  match entry.run s with
  | .error k s' => halt s none k s'
  | .ok _ s' => .next s'

/-- `Step()`: fetch and execute the instruction at PC (60_exceptions.md R258). -/
def stepInstr (s : State) : StepOutcome :=
  match fetch s with
  | .raised k op => halt s op k s
  | .instr i => exec i s

/-- The check before each dispatch takes NMI, whatever I is (60_exceptions.md R252, R253). -/
def takesNmi (s : State) : Bool := s.nmiPending

/-- The check takes IRQ when no NMI is pending and I is clear (60_exceptions.md R251, R253). -/
def takesIrq (s : State) : Bool := !s.nmiPending && s.irqPending && !s.flags.i

/-- `Dispatch()` (60_exceptions.md R257). -/
def dispatch (s : State) : StepOutcome :=
  if takesNmi s then performEntry nmiEntry s
  else if takesIrq s then performEntry irqEntry s
  else stepInstr s

/-- The budget of the next batch (60_exceptions.md R260). -/
def nextBudget (s : State) : Nat :=
  match availableCpuTicks s with
  | some n => max n 1
  | none => s.cfg.defaultBatchCycles

/-- Opens a batch if none is open (60_exceptions.md R260). -/
def openBatch (s : State) : State :=
  match s.batch with
  | some _ => s
  | none => { s with batch := some { budget := nextBudget s, used := 0 } }

/-- `BatchEnd(used)` (60_exceptions.md R261), which closes the batch. -/
def batchEnd (used : Nat) (s : State) : State :=
  let r := cpuTick used s
  let key := r.1.keyPending
  { r.1 with
    keyPending := false
    systemVia := if key then r.1.systemVia.forceIfr else r.1.systemVia
    irqPending := r.1.irqPending || r.2.irq || key
    nmiPending := r.1.nmiPending || r.2.nmi
    batch := none }

/-- After a dispatch that began at `c0` cycles: `used <- used + (cycleCount - c0)`, and BatchEnd once the budget is
reached (60_exceptions.md R260). -/
def account (c0 : Nat) (s : State) : State :=
  match s.batch with
  | none => s
  | some b =>
    let used := b.used + (s.cycleCount - c0)
    if used ≥ b.budget then batchEnd used s else { s with batch := some { b with used := used } }

/-- One dispatch inside the open batch, with its accounting (60_exceptions.md R260). -/
def dispatchInBatch (s : State) : StepOutcome :=
  match dispatch s with
  | .next s' => .next (account s.cycleCount s')
  | .fault f => .fault f
  | .refused r => .refused r

/-- Whether the run loop is before a batch with the host's cancel set (60_exceptions.md R262). -/
def cancels (s : State) : Bool := s.batch.isNone && s.cancelRequested

/-- One turn of the run loop (60_exceptions.md R260, R262; log 5): before a batch, cancel stops the machine; otherwise a
batch is opened if none is open, and one dispatch runs in it. A stopped machine dispatches nothing (R240). -/
def runLoopTurn (s : State) : StepOutcome :=
  match s.run with
  | .running => if cancels s then .next { s with run := .stoppedCancel } else dispatchInBatch (openBatch s)
  | .stoppedCancel => .fault (.alreadyStopped s)
  | .stoppedFault _ => .fault (.alreadyStopped s)

end Sys2Proof.Machine
end

