-- ==== Sys2Proof/Machine/Loading.lean ====
section
/-! DEFINITION. Placing an instruction where the next step fetches it (log 4): it stands for the launch-time loading of
70_reset_and_hazards.md R335, and is no operation of the machine. -/

namespace Sys2Proof.Machine

/-- Replaces the image of a bank key. -/
def replaceBank (key : Byte) (image : Memory) : List (Byte × Memory) → List (Byte × Memory)
  | [] => []
  | (k, old) :: rest => if k = key then (k, image) :: rest else (k, old) :: replaceBank key image rest

/-- Whether an address is backed by storage that a loader can fill: RAM, the OS ROM image or a registered bank. -/
def loadable (s : State) (a : Addr) : Bool :=
  match region a with
  | .ram => true
  | .bankSelect => true
  | .osRom _ => true
  | .pagedRom _ => (bankImage s.selectedBank s.banks).isSome
  | .ignored => false
  | .via _ _ => false

/-- Puts a byte into the storage behind an address. -/
def loadByte (s : State) (a : Addr) (v : Byte) : State :=
  match region a with
  | .ram => { s with ram := s.ram.write a.toNat v }
  | .bankSelect => { s with osRom := s.osRom.write 0x3E30 v }
  | .osRom o => { s with osRom := s.osRom.write o v }
  | .pagedRom o =>
    match bankImage s.selectedBank s.banks with
    | some image => { s with banks := replaceBank s.selectedBank (image.write o v) s.banks }
    | none => s
  | .ignored => s
  | .via _ _ => s

/-- Puts bytes at consecutive addresses. -/
def loadBytes (s : State) (a : Addr) : List Byte → State
  | [] => s
  | b :: bs => loadBytes (loadByte s a b) (a + 1) bs

/-- The three bytes at PC can be loaded. -/
def loadableAtPc (s : State) : Bool :=
  decide (s.pc.toNat + 2 ≤ 0xFFFF) && loadable s s.pc && loadable s (s.pc + 1) && loadable s (s.pc + 2)

/-- The state in which the next step is a fetch at PC: running, no cancel before a batch, no interrupt that the check
would take, and PC where three bytes can be loaded (0x0200 in RAM if it is not). -/
def readyToFetch (s : State) : State :=
  let s1 := { s with run := .running, nmiPending := false }
  let s2 := { s1 with irqPending := s1.irqPending && s1.flags.i }
  let s3 := { s2 with cancelRequested := s2.cancelRequested && s2.batch.isSome }
  if loadableAtPc s3 then s3 else { s3 with pc := 0x0200 }

end Sys2Proof.Machine
end

