-- ==== Sys2Proof/Machine/Step.lean ====
section
/-! DEFINITION. The step, and the state whose next step runs a given instruction. -/

namespace Sys2Proof.Machine

/-- One step of the block: one turn of the run loop (log 5). -/
def step (s : State) : Host.Outcome State Fault Refusal := runLoopTurn s

/-- `s` with the instruction of an opcode-table word stored where the next step fetches (log 4). -/
def State.withFetchWord (s : State) (nbits w : Nat) : State :=
  loadBytes (readyToFetch s) (readyToFetch s).pc (tableWordBytes nbits w)

end Sys2Proof.Machine
end

