-- ==== Sys2Proof/Machine/Launch.lean ====
section
/-! DEFINITION. Launch (70_reset_and_hazards.md R330, R335) and the host's channels (00_scope.md R7; 60_exceptions.md
R303, R304). -/

namespace Sys2Proof.Machine

/-- The bytes supplied at launch, the reset registers and the parameters (00_scope.md R7, R9). -/
structure Launch where
  regs : ResetRegs
  ramInit : List Byte
  osRom : List Byte
  banks : List (Byte × List Byte)
  cfg : Config
deriving DecidableEq, Repr

/-- Every image has its exact size, BANKS is a map, and the parameters are in range (70_reset_and_hazards.md R335). -/
def Launch.wellFormed (l : Launch) : Bool :=
  imageWellFormed 32768 l.ramInit && imageWellFormed 16384 l.osRom
    && l.banks.all (fun e => imageWellFormed 16384 e.2) && bankKeysWellFormed l.banks && l.cfg.wellFormed

/-- The state a launch starts in; a launch with an image of another size is refused (R335; log 15). -/
def launch (l : Launch) : Option State :=
  if l.wellFormed then
    some (State.atReset l.regs (Memory.ofImage l.ramInit) (Memory.ofImage l.osRom)
      (l.banks.map fun e => (e.1, Memory.ofImage e.2)) l.cfg)
  else none

/-- The host's "set pending external interrupt" (60_exceptions.md R303). It lands between steps (log 6). -/
def hostSetPendingInterrupt (s : State) : State := { s with keyPending := true }

/-- The host's stop/cancel signal (60_exceptions.md R262). It lands between steps (log 6). -/
def hostCancel (s : State) : State := { s with cancelRequested := true }

/-- The renderer's read of the video window 0x7C00-0x7FFF; nothing outside it is readable by the host
(20_memory.md R87; 60_exceptions.md R304). -/
def rendererRead (s : State) (a : Nat) : Option Byte :=
  if 0x7C00 ≤ a ∧ a ≤ 0x7FFF then some (s.ram.read a) else none

end Sys2Proof.Machine
end

