-- ==== Sys2Proof/Safety.lean ====
section
/-! DEFINITION. The terms claims are stated in: the invariant of the block (10_state.md R43-R50), what an instruction's
common ending leaves, and what may be read without a fault. -/

namespace Sys2Proof.Machine

/-- The invariant of the block: memory in canonical form, and the bounds of 10_state.md R43, R45, R46, R47 and R50. -/
structure Inv (s : State) : Prop where
  /-- RAM is a canonical block of 32768 bytes. -/
  ramWf : s.ram.wf 0x8000 = true
  /-- The OS ROM image is a canonical block of 16384 bytes. -/
  osRomWf : s.osRom.wf 0x4000 = true
  /-- Every bank image is a canonical block of 16384 bytes. -/
  banksWf : s.banks.all (fun e => e.2.wf 0x4000) = true
  /-- BANKS is a map. -/
  bankKeys : bankKeysWellFormed s.banks = true
  /-- B = false (R39, R50). -/
  breakFlag : s.flags.b = false
  /-- Bit 7 of the System VIA's IER storage is 0 (R45, R50). -/
  systemIer : s.systemVia.ier.getLsbD 7 = false
  /-- Bit 7 of the User VIA's IER storage is 0 (R45, R50). -/
  userIer : s.userVia.ier.getLsbD 7 = false
  /-- `0 <= remainder < CLOCK_RATIO` (R46, R50). -/
  remainderBound : s.remainder < Config.clockRatio
  /-- `1 <= remaining <= FRAME_PERIOD` (R47). -/
  frameBounds : 1 ≤ s.frameRemaining ∧ s.frameRemaining ≤ Config.framePeriod
  /-- An open batch has a budget of at least 1 (R43), not yet used up: it would have ended (60_exceptions.md R260). -/
  batchOpen : ∀ b, s.batch = some b → b.used < b.budget
  /-- Each timer is registered once (R46: a name-keyed collection). -/
  timersDistinct : s.timers.Nodup
  /-- The parameters are in range (00_scope.md R9). -/
  cfgWf : s.cfg.wellFormed = true

/-- The instruction's end lies in the address space, so that its PC update raises nothing (20_memory.md R61). -/
def Fits (i : Instr) (s : State) : Prop := s.pc.toNat + i.length ≤ 0xFFFF

/-- A state after a non-control-flow instruction's common ending (40_load_store_transfer.md R130). -/
def State.advanced (s : State) (i : Instr) : State :=
  { s with pc := s.pc + BitVec.ofNat 16 i.length, cycleCount := s.cycleCount + i.baseCycles }

/-- Z says that a result byte is 0 and N that it is 0x80 or more, the other flags kept (00_scope.md R13, SetNZ). -/
def Flags.nz (f : Flags) (v : Byte) : Flags := { f with z := decide (v = 0), n := decide (0x80 ≤ v.toNat) }

/-- A read of the address raises nothing (20_memory.md R62, R66). -/
def Readable (s : State) (a : Addr) : Prop := ¬(s.cfg.strictIgnored = true ∧ region a = .ignored)

/-- A write of the address raises nothing: RAM, an ignored window unless strict, a VIA window, the bank-select register
(20_memory.md R63). -/
def Writable (s : State) (a : Addr) : Prop :=
  a.toNat ≤ 0x7FFF ∨ (isIgnored a.toNat = true ∧ s.cfg.strictIgnored = false)
    ∨ (0xFE40 ≤ a.toNat ∧ a.toNat ≤ 0xFE4F) ∨ (0xFE60 ≤ a.toNat ∧ a.toNat ≤ 0xFE6F) ∨ a.toNat = 0xFE30

/-- `t` differs from `s` in nothing but what one store to `a` changes: every other address reads as before, but that
a store to the bank-select register changes what the paged window shows (20_memory.md R72, R83), and every field other
than RAM, the selected bank and the VIAs is the same. -/
def OnlyStoredAt (s t : State) (a : Addr) : Prop :=
  (∀ b : Addr, b ≠ a → ¬(a.toNat = 0xFE30 ∧ 0x8000 ≤ b.toNat ∧ b.toNat ≤ 0xBFFF) → t.peek b = s.peek b)
    ∧ t = { s with ram := t.ram, selectedBank := t.selectedBank, systemVia := t.systemVia, userVia := t.userVia }

/-- The state a dispatch of `s0` that faulted leaves, `s'` being what the accesses before the fault left
(60_exceptions.md R240). -/
def State.halted (s' : State) (report : FaultReport) : State := { s' with run := .stoppedFault report }

/-- The report of a fault of the dispatch of instruction `i` that began in `s0` (60_exceptions.md R240). -/
def reportOf (s0 : State) (i : Instr) (k : FaultKind) : FaultReport :=
  { kind := k, pc := s0.pc, opcode := some i.opcode, cycleCount := s0.cycleCount }

/-- The outcome of an instruction that faulted. -/
def faultOf (s0 : State) (i : Instr) (k : FaultKind) (s' : State) : StepOutcome :=
  .fault (.raised (reportOf s0 i k) (s'.halted (reportOf s0 i k)))

end Sys2Proof.Machine
end

