-- ==== Sys2Proof/Certificates/Slice0/Obligations.lean ====
section
/-! DEFINITION. The statements, one per rule or group of rules of spec/. An instruction is named by the opcodes of its
rule's Encoding line; `t` is the state its effect leaves, before the common ending of 40_load_store_transfer.md R130;
`Fits` says that its end lies in the address space, and outside it the PC update is the fault (60_exceptions.md R248). -/

open Sys2Proof Sys2Proof.Machine

/-! ## Encoding -/

/-- Words written out from the opcode table: LDA #$08, STA $05, CMP #$01 (95_test_vectors.md E1, E2), LDA $12FF,X,
JMP ($10FF), BNE -6, ASL A, BRK before a signature byte, STX $FF,Y, and the illegal byte 0x02. -/
def Obligations.SpecWordsDecode : Prop :=
  decode [0xA9, 0x08] = .instr (.ldaImm 0x08) []
    ∧ decode [0x85, 0x05] = .instr (.staZp 0x05) []
    ∧ decode [0xC9, 0x01] = .instr (.cmpImm 0x01) []
    ∧ decode [0xBD, 0xFF, 0x12] = .instr (.ldaAbx 0x12FF) []
    ∧ decode [0x6C, 0xFF, 0x10] = .instr (.jmpInd 0x10FF) []
    ∧ decode [0xD0, 0xFA] = .instr (.bneRel 0xFA) []
    ∧ decode [0x0A] = .instr .aslAcc []
    ∧ decode [0x00, 0xEA] = .instr .brk [0xEA]
    ∧ decode [0x96, 0xFF] = .instr (.stxZpy 0xFF) []
    ∧ decode [0x02] = .illegalOpcode 0x02

/-- R118, R101, R103: the opcode table, whole. An instruction of each mode tag and operand value is exactly a row of that
tag: opcode, mnemonic and base cycles. The length follows from the tag, and the operand field is the whole operand bytes,
low byte first. (The syntax column is the assembler's.) -/
def Obligations.OpcodeTableRows : Prop :=
  (∀ (m : AddrMode) (op : Byte) (mn : Mnemonic) (cycles : Nat),
    (∃ i : Instr, i.mode = m ∧ i.opcode = op ∧ i.mnemonic = mn ∧ i.baseCycles = cycles) ↔
      (op, mn, cycles) ∈ (match m with
        | .implied =>
          [(0x00, .brk, 7), (0x08, .php, 3), (0x0A, .asl, 2), (0x18, .clc, 2), (0x28, .plp, 4), (0x2A, .rol, 2),
            (0x38, .sec, 2), (0x40, .rti, 6), (0x48, .pha, 3), (0x4A, .lsr, 2), (0x58, .cli, 2), (0x60, .rts, 6),
            (0x68, .pla, 4), (0x6A, .ror, 2), (0x78, .sei, 2), (0x88, .dey, 2), (0x8A, .txa, 2), (0x98, .tya, 2),
            (0x9A, .txs, 2), (0xA8, .tay, 2)]
            ++ [(0xAA, .tax, 2), (0xB8, .clv, 2), (0xBA, .tsx, 2), (0xC8, .iny, 2), (0xCA, .dex, 2), (0xD8, .cld, 2),
            (0xE8, .inx, 2), (0xEA, .nop, 2), (0xF8, .sed, 2)]
        | .immediate _ =>
          [(0x09, .ora, 2), (0x10, .bpl, 2), (0x29, .and, 2), (0x30, .bmi, 2), (0x49, .eor, 2), (0x50, .bvc, 2),
            (0x69, .adc, 2), (0x70, .bvs, 2), (0x90, .bcc, 2), (0xA0, .ldy, 2), (0xA2, .ldx, 2), (0xA9, .lda, 2),
            (0xB0, .bcs, 2), (0xC0, .cpy, 2), (0xC9, .cmp, 2), (0xD0, .bne, 2), (0xE0, .cpx, 2), (0xE9, .sbc, 2),
            (0xF0, .beq, 2)]
        | .zeroPage _ =>
          [(0x05, .ora, 3), (0x06, .asl, 5), (0x24, .bit, 3), (0x25, .and, 3), (0x26, .rol, 5), (0x45, .eor, 3),
            (0x46, .lsr, 5), (0x65, .adc, 3), (0x66, .ror, 5), (0x84, .sty, 3), (0x85, .sta, 3), (0x86, .stx, 3),
            (0xA4, .ldy, 3), (0xA5, .lda, 3), (0xA6, .ldx, 3), (0xC4, .cpy, 3), (0xC5, .cmp, 3), (0xC6, .dec, 5),
            (0xE4, .cpx, 3), (0xE5, .sbc, 3)]
            ++ [(0xE6, .inc, 5)]
        | .zeroPageX _ =>
          [(0x15, .ora, 4), (0x16, .asl, 6), (0x35, .and, 4), (0x36, .rol, 6), (0x55, .eor, 4), (0x56, .lsr, 6),
            (0x75, .adc, 4), (0x76, .ror, 6), (0x94, .sty, 4), (0x95, .sta, 4), (0xB4, .ldy, 4), (0xB5, .lda, 4),
            (0xD5, .cmp, 4), (0xD6, .dec, 6), (0xF5, .sbc, 4), (0xF6, .inc, 6)]
        | .zeroPageY _ =>
          [(0x96, .stx, 4), (0xB6, .ldx, 4)]
        | .absolute _ =>
          [(0x0D, .ora, 4), (0x0E, .asl, 6), (0x20, .jsr, 6), (0x2C, .bit, 4), (0x2D, .and, 4), (0x2E, .rol, 6),
            (0x4C, .jmp, 3), (0x4D, .eor, 4), (0x4E, .lsr, 6), (0x6D, .adc, 4), (0x6E, .ror, 6), (0x8C, .sty, 4),
            (0x8D, .sta, 4), (0x8E, .stx, 4), (0xAC, .ldy, 4), (0xAD, .lda, 4), (0xAE, .ldx, 4), (0xCC, .cpy, 4),
            (0xCD, .cmp, 4), (0xCE, .dec, 6)]
            ++ [(0xEC, .cpx, 4), (0xED, .sbc, 4), (0xEE, .inc, 6)]
        | .absoluteX _ =>
          [(0x1D, .ora, 4), (0x1E, .asl, 7), (0x3D, .and, 4), (0x3E, .rol, 7), (0x5D, .eor, 4), (0x5E, .lsr, 7),
            (0x7D, .adc, 4), (0x7E, .ror, 7), (0x9D, .sta, 5), (0xBC, .ldy, 4), (0xBD, .lda, 4), (0xDD, .cmp, 4),
            (0xDE, .dec, 7), (0xFD, .sbc, 4), (0xFE, .inc, 7)]
        | .absoluteY _ =>
          [(0x19, .ora, 4), (0x39, .and, 4), (0x59, .eor, 4), (0x79, .adc, 4), (0x99, .sta, 5), (0xB9, .lda, 4),
            (0xBE, .ldx, 4), (0xD9, .cmp, 4), (0xF9, .sbc, 4)]
        | .indirect _ =>
          [(0x6C, .jmp, 5)]
        | .indexedIndirect _ =>
          [(0x01, .ora, 6), (0x21, .and, 6), (0x41, .eor, 6), (0x61, .adc, 6), (0x81, .sta, 6), (0xA1, .lda, 6),
            (0xC1, .cmp, 6), (0xE1, .sbc, 6)]
        | .indirectIndexed _ =>
          [(0x11, .ora, 5), (0x31, .and, 5), (0x51, .eor, 5), (0x71, .adc, 5), (0x91, .sta, 6), (0xB1, .lda, 5),
            (0xD1, .cmp, 5), (0xF1, .sbc, 5)]
        : List (Byte × Mnemonic × Nat)))
    ∧ (∀ i : Instr, i.length = (match i.mode with
        | .implied => 1
        | .immediate _ | .zeroPage _ | .zeroPageX _ | .zeroPageY _ | .indexedIndirect _ | .indirectIndexed _ => 2
        | .absolute _ | .absoluteX _ | .absoluteY _ | .indirect _ => 3))
    ∧ ∀ i : Instr, encode i = i.opcode :: (match i.mode with
        | .implied => []
        | .immediate b | .zeroPage b | .zeroPageX b | .zeroPageY b | .indexedIndirect b | .indirectIndexed b => [b]
        | .absolute a | .absoluteX a | .absoluteY a | .indirect a =>
          [BitVec.ofNat 8 (a.toNat % 256), BitVec.ofNat 8 (a.toNat / 256)])

/-- Decode and encode agree in both directions: every well-formed instruction decodes back from its bytes, whatever
follows them, and every byte string that decodes begins with exactly the bytes of what it decodes to. -/
def Obligations.DecodeEncodeAgree : Prop :=
  (∀ (i : Instr) (rest : List Byte), i.wellFormed = true → decode (encode i ++ rest) = .instr i rest)
    ∧ ∀ (bs : List Byte) (i : Instr) (rest : List Byte), decode bs = .instr i rest → bs = encode i ++ rest

/-- R121, R241: the 105 opcodes with no entry are these, and fetching one raises IllegalOpcode(opcode, PC) before any
operand is read, with nothing changed. -/
def Obligations.IllegalOpcodesFault : Prop :=
  ∀ (op : Byte),
    ((∀ bs : List Byte, decode (op :: bs) = .illegalOpcode op) ↔
      op ∈ ([0x02, 0x03, 0x04, 0x07, 0x0B, 0x0C, 0x0F, 0x12, 0x13, 0x14, 0x17, 0x1A, 0x1B, 0x1C, 0x1F, 0x22, 0x23, 0x27,
        0x2B, 0x2F, 0x32, 0x33, 0x34, 0x37, 0x3A, 0x3B, 0x3C, 0x3F, 0x42, 0x43, 0x44, 0x47, 0x4B, 0x4F, 0x52, 0x53, 0x54,
        0x57, 0x5A, 0x5B, 0x5C, 0x5F, 0x62, 0x63, 0x64, 0x67, 0x6B, 0x6F, 0x72, 0x73, 0x74, 0x77, 0x7A, 0x7B, 0x7C, 0x7F]
        ++ [0x80, 0x82, 0x83, 0x87, 0x89, 0x8B, 0x8F, 0x92, 0x93, 0x97, 0x9B, 0x9C, 0x9E, 0x9F, 0xA3, 0xA7, 0xAB, 0xAF,
        0xB2, 0xB3, 0xB7, 0xBB, 0xBF, 0xC2, 0xC3, 0xC7, 0xCB, 0xCF, 0xD2, 0xD3, 0xD4, 0xD7, 0xDA, 0xDB, 0xDC, 0xDF, 0xE2,
        0xE3, 0xE7, 0xEB, 0xEF, 0xF2, 0xF3, 0xF4, 0xF7, 0xFA, 0xFB, 0xFC, 0xFF] : List Byte))
    ∧ ∀ s : State, s.peek s.pc = op → Readable s s.pc → (∀ bs : List Byte, decode (op :: bs) = .illegalOpcode op) →
        stepInstr s = .fault (.raised
          { kind := .illegalOpcode op s.pc, pc := s.pc, opcode := some op, cycleCount := s.cycleCount }
          (s.halted { kind := .illegalOpcode op s.pc, pc := s.pc, opcode := some op, cycleCount := s.cycleCount }))

/-- The fetch gives an instruction exactly when the instruction's bytes stand at PC, PC+1, PC+2, inside the address
space and readable. -/
def Obligations.FetchReadsBytesAtPc : Prop :=
  ∀ (s : State) (i : Instr),
    fetch s = .instr i ↔
      s.pc.toNat + i.length ≤ 0x10000
        ∧ ∀ k : Nat, k < i.length →
            Readable s (s.pc + BitVec.ofNat 16 k) ∧ (encode i)[k]? = some (s.peek (s.pc + BitVec.ofNat 16 k))

/-- An instruction whose operand bytes would lie above 0xFFFF faults at the fetch with OutOfRange(0x10000), with
nothing changed (R244; 30_encoding.md R102). -/
def Obligations.OperandFetchPastTopFaults : Prop :=
  ∀ (s : State) (n : Nat), opcodeLength (s.peek s.pc) = some n → 0x10000 < s.pc.toNat + n →
    stepInstr s = .fault (.raised
      { kind := .outOfRange 0x10000 none, pc := s.pc, opcode := some (s.peek s.pc), cycleCount := s.cycleCount }
      (s.halted { kind := .outOfRange 0x10000 none, pc := s.pc, opcode := some (s.peek s.pc), cycleCount := s.cycleCount }))

/-! ## Memory -/

/-- R62, R65, R66: the routing of reads, line by line, with the ignored windows spelled out. -/
def Obligations.AddressDecoderRoutesReads : Prop :=
  ∀ (a : Addr) (s : State),
    (memRead a).run s =
      if a.toNat ≤ 0x7FFF then .ok (s.ram.read a.toNat) s
      else if (0xFE08 ≤ a.toNat ∧ a.toNat ≤ 0xFE09) ∨ a.toNat = 0xFE10 ∨ (0xFE20 ≤ a.toNat ∧ a.toNat ≤ 0xFE21)
          ∨ (0xFEC0 ≤ a.toNat ∧ a.toNat ≤ 0xFEC2) ∨ a.toNat = 0xFEE0 ∨ a.toNat = 0xFEE5
          ∨ (0xFC00 ≤ a.toNat ∧ a.toNat ≤ 0xFCFF) ∨ (0xFD00 ≤ a.toNat ∧ a.toNat ≤ 0xFDFF) then
        if s.cfg.strictIgnored then .error (.ignoredHardwareAccess a .read) s else .ok 0x00 s
      else if 0xFE40 ≤ a.toNat ∧ a.toNat ≤ 0xFE4F then .ok (s.systemVia.get (a.toNat - 0xFE40)) s
      else if 0xFE60 ≤ a.toNat ∧ a.toNat ≤ 0xFE6F then .ok (s.userVia.get (a.toNat - 0xFE60)) s
      else if 0xC000 ≤ a.toNat then .ok (s.osRom.read (a.toNat - 0xC000)) s
      else .ok (((bankImage s.selectedBank s.banks).map fun image => image.read (a.toNat - 0x8000)).getD 0x00) s

/-- R63, R71, R72: the routing of writes, line by line. -/
def Obligations.AddressDecoderRoutesWrites : Prop :=
  ∀ (a : Addr) (v : Byte) (s : State),
    (memWrite a v).run s =
      if a.toNat ≤ 0x7FFF then .ok () { s with ram := s.ram.write a.toNat v }
      else if (0xFE08 ≤ a.toNat ∧ a.toNat ≤ 0xFE09) ∨ a.toNat = 0xFE10 ∨ (0xFE20 ≤ a.toNat ∧ a.toNat ≤ 0xFE21)
          ∨ (0xFEC0 ≤ a.toNat ∧ a.toNat ≤ 0xFEC2) ∨ a.toNat = 0xFEE0 ∨ a.toNat = 0xFEE5
          ∨ (0xFC00 ≤ a.toNat ∧ a.toNat ≤ 0xFCFF) ∨ (0xFD00 ≤ a.toNat ∧ a.toNat ≤ 0xFDFF) then
        if s.cfg.strictIgnored then .error (.ignoredHardwareAccess a (.write v)) s else .ok () s
      else if 0xFE40 ≤ a.toNat ∧ a.toNat ≤ 0xFE4F then
        .ok () { s with systemVia := s.systemVia.set (a.toNat - 0xFE40) v }
      else if 0xFE60 ≤ a.toNat ∧ a.toNat ≤ 0xFE6F then
        .ok () { s with userVia := s.userVia.set (a.toNat - 0xFE60) v }
      else if a.toNat = 0xFE30 then .ok () { s with selectedBank := v }
      else if 0xC000 ≤ a.toNat then .error (.readOnlyViolation .osRom a v) s
      else .error (.readOnlyViolation (.pagedRom s.selectedBank) a v) s

/-- A write that raises nothing changes no other address's reading, but for the paged window after a bank select, and a
byte of RAM then reads as written; RAM's storage itself changes at the one address (20_memory.md R63, R72, R83). -/
def Obligations.WriteChangesOnlyItsAddress : Prop :=
  ∀ (a : Addr) (v : Byte) (s : State), s.ram.wf 0x8000 = true → Writable s a →
    (∃ t : State, (memWrite a v).run s = .ok () t ∧ OnlyStoredAt s t a ∧ t.ram.wf 0x8000 = true
      ∧ (a.toNat ≤ 0x7FFF → t.peek a = v))
      ∧ ∀ n b : Nat, n < 0x8000 →
        (s.ram.write n v).wf 0x8000 = true ∧ (s.ram.write n v).read b = if b = n then v else s.ram.read b

/-- R76-R79: push writes and then decrements SP, pull increments SP and then reads, Push16 pushes the high byte first,
Pull16 pulls the low byte first, and Push16 then Pull16 returns the value with SP unchanged. No stack access raises. -/
def Obligations.StackPushPull : Prop :=
  ∀ (s : State) (b : Byte) (w : Addr), s.ram.wf 0x8000 = true →
    (push b).run s = .ok () { s with ram := s.ram.write (0x0100 + s.sp.toNat) b, sp := s.sp - 1 }
      ∧ pull.run s = .ok (s.ram.read (0x0100 + (s.sp + 1).toNat)) { s with sp := s.sp + 1 }
      ∧ (push16 w).run s = (do push (hiByte w); push (loByte w) : Exec Unit).run s
      ∧ pull16.run s = (do let lo ← pull; let hi ← pull; pure (addrOfBytes lo hi) : Exec Addr).run s
      ∧ ∃ t : State, (push16 w).run s = .ok () t ∧ pull16.run t = .ok w { t with sp := s.sp }

/-- R75: Read16 gives the low byte at `a` and the high byte at `a + 1`, low byte read first; it raises what either read
raises, and OutOfRange at 0xFFFF. -/
def Obligations.Read16IsLittleEndian : Prop :=
  ∀ (a : Addr) (s : State),
    (¬Readable s a → (read16 a).run s = .error (.ignoredHardwareAccess a .read) s)
      ∧ (Readable s a → a.toNat < 0xFFFF → Readable s (a + 1) →
        ∃ w : Addr, (read16 a).run s = .ok w s ∧ w.toNat = (s.peek a).toNat + 256 * (s.peek (a + 1)).toNat)
      ∧ (Readable s a → a.toNat < 0xFFFF → ¬Readable s (a + 1) →
        (read16 a).run s = .error (.ignoredHardwareAccess (a + 1) .read) s)
      ∧ (a.toNat = 0xFFFF → (read16 a).run s = .error (.outOfRange 0x10000 none) s)

/-! ## Addressing modes -/

/-- The zero-page modes add the index modulo 256 and never leave zero page; the absolute modes add it exactly and raise
OutOfRange above 0xFFFF (30_encoding.md R106-R111). That the report then carries no value is log 10. -/
def Obligations.IndexedModesWrapOrFault : Prop :=
  ∀ (s : State) (zp : Byte) (a : Addr),
    (∃ e : Addr, (ea (.zeroPage zp)).run s = .ok e s ∧ e.toNat = zp.toNat)
      ∧ (∃ e : Addr, (ea (.zeroPageX zp)).run s = .ok e s ∧ e.toNat = (zp.toNat + s.x.toNat) % 256)
      ∧ (∃ e : Addr, (ea (.zeroPageY zp)).run s = .ok e s ∧ e.toNat = (zp.toNat + s.y.toNat) % 256)
      ∧ (ea (.absolute a)).run s = .ok a s
      ∧ (a.toNat + s.x.toNat ≤ 0xFFFF →
        ∃ e : Addr, (ea (.absoluteX a)).run s = .ok e s ∧ e.toNat = a.toNat + s.x.toNat)
      ∧ (0xFFFF < a.toNat + s.x.toNat →
        (ea (.absoluteX a)).run s = .error (.outOfRange (a.toNat + s.x.toNat) none) s)
      ∧ (a.toNat + s.y.toNat ≤ 0xFFFF →
        ∃ e : Addr, (ea (.absoluteY a)).run s = .ok e s ∧ e.toNat = a.toNat + s.y.toNat)
      ∧ (0xFFFF < a.toNat + s.y.toNat →
        (ea (.absoluteY a)).run s = .error (.outOfRange (a.toNat + s.y.toNat) none) s)

/-- The pointer modes: a JMP-indirect pointer's high byte comes from the same page, a zero-page pointer's from zero
page, and (zp),Y adds Y exactly (30_encoding.md R112-R114). That an OutOfRange report carries no value is log 10. -/
def Obligations.PointerModesWrapTheirPage : Prop :=
  ∀ (s : State) (zp : Byte) (p q : Addr), p.toNat / 256 = q.toNat / 256 → q.toNat % 256 = (p.toNat + 1) % 256 →
    (¬Readable s p → (ea (.indirect p)).run s = .error (.ignoredHardwareAccess p .read) s)
      ∧ (Readable s p → ¬Readable s q → (ea (.indirect p)).run s = .error (.ignoredHardwareAccess q .read) s)
      ∧ (Readable s p → Readable s q →
      ∃ e : Addr, (ea (.indirect p)).run s = .ok e s ∧ e.toNat = (s.peek p).toNat + 256 * (s.peek q).toNat)
      ∧ (∃ e : Addr, (ea (.indexedIndirect zp)).run s = .ok e s
        ∧ e.toNat = (s.ram.read ((zp.toNat + s.x.toNat) % 256)).toNat
            + 256 * (s.ram.read ((zp.toNat + s.x.toNat + 1) % 256)).toNat)
      ∧ ∀ n : Nat, n = (s.ram.read zp.toNat).toNat + 256 * (s.ram.read ((zp.toNat + 1) % 256)).toNat + s.y.toNat →
        (n ≤ 0xFFFF → ∃ e : Addr, (ea (.indirectIndexed zp)).run s = .ok e s ∧ e.toNat = n)
          ∧ (0xFFFF < n → (ea (.indirectIndexed zp)).run s = .error (.outOfRange n none) s)

/-- An operand is the byte at the effective address, for every mode that has one but Immediate (30_encoding.md R115). The
Immediate operand is the byte after the opcode (R105): the model's fetch has read it into the instruction's field before
exec runs (log 9, DEDUCED), so that the operand there is that field and no read is left to raise; the last clause says that
the field of a fetched instruction is the byte a read of PC + 1 gives. -/
def Obligations.OperandIsByteAtEffectiveAddress : Prop :=
  ∀ s : State,
    (∀ (m : AddrMode) (a : Addr), m ≠ .implied → (∀ b, m ≠ .immediate b) → (ea m).run s = .ok a s →
      (Readable s a → (operand m).run s = .ok (s.peek a) s)
        ∧ (¬Readable s a → (operand m).run s = .error (.ignoredHardwareAccess a .read) s))
      ∧ (∀ b : Byte, (operand (.immediate b)).run s = .ok b s)
      ∧ ∀ (i : Instr) (b : Byte), i.mode = .immediate b → fetch s = .instr i →
        s.pc.toNat + 1 ≤ 0xFFFF ∧ (memRead (s.pc + 1)).run s = .ok b s

/-! ## Loads, stores, transfers -/

/-- R131, R132, R133: LDA, LDX and LDY load their operand into A, X or Y and set Z and N; nothing else changes but PC and
cycleCount. An operand that raises ends the instruction with nothing changed. -/
def Obligations.LoadsWriteTheirRegister : Prop :=
  ∀ (i : Instr) (s t : State) (v : Byte),
    ((i.opcode ∈ [0xA9, 0xA5, 0xB5, 0xAD, 0xBD, 0xB9, 0xA1, 0xB1] ∧ t = { s with a := v, flags := s.flags.nz v })
      ∨ (i.opcode ∈ [0xA2, 0xA6, 0xB6, 0xAE, 0xBE] ∧ t = { s with x := v, flags := s.flags.nz v })
      ∨ (i.opcode ∈ [0xA0, 0xA4, 0xB4, 0xAC, 0xBC] ∧ t = { s with y := v, flags := s.flags.nz v })) →
    ((operand i.mode).run s = .ok v s →
      (Fits i s → exec i s = .next (t.advanced i))
        ∧ (¬Fits i s → exec i s = faultOf s i (.outOfRange (s.pc.toNat + i.length) none) t))
      ∧ ∀ k : FaultKind, (operand i.mode).run s = .error k s → exec i s = faultOf s i k s

/-- R134, R135, R136: STA, STX and STY store A, X or Y at the effective address and write no flag; every other address
reads as before. A write that raises (ROM, or an ignored window under strict mode) ends the instruction with nothing
changed. -/
def Obligations.StoresWriteMemory : Prop :=
  ∀ (i : Instr) (s : State) (v : Byte),
    ((i.opcode ∈ [0x85, 0x95, 0x8D, 0x9D, 0x99, 0x81, 0x91] ∧ v = s.a)
      ∨ (i.opcode ∈ [0x86, 0x96, 0x8E] ∧ v = s.x) ∨ (i.opcode ∈ [0x84, 0x94, 0x8C] ∧ v = s.y)) →
    (∀ a : Addr, (ea i.mode).run s = .ok a s →
      (Writable s a → ∃ t : State, (memWrite a v).run s = .ok () t ∧ OnlyStoredAt s t a
        ∧ (Fits i s → exec i s = .next (t.advanced i))
        ∧ (¬Fits i s → exec i s = faultOf s i (.outOfRange (s.pc.toNat + i.length) none) t))
        ∧ ∀ k : FaultKind, (memWrite a v).run s = .error k s → exec i s = faultOf s i k s)
      ∧ ∀ k : FaultKind, (ea i.mode).run s = .error k s → exec i s = faultOf s i k s

/-- R137-R142: the six transfers; TXS alone writes no flag. -/
def Obligations.TransfersCopyRegisters : Prop :=
  ∀ (i : Instr) (s t : State),
    ((i.opcode = 0xAA ∧ t = { s with x := s.a, flags := s.flags.nz s.a })
      ∨ (i.opcode = 0xA8 ∧ t = { s with y := s.a, flags := s.flags.nz s.a })
      ∨ (i.opcode = 0x8A ∧ t = { s with a := s.x, flags := s.flags.nz s.x })
      ∨ (i.opcode = 0x98 ∧ t = { s with a := s.y, flags := s.flags.nz s.y })
      ∨ (i.opcode = 0xBA ∧ t = { s with x := s.sp, flags := s.flags.nz s.sp })
      ∨ (i.opcode = 0x9A ∧ t = { s with sp := s.x })) →
    (Fits i s → exec i s = .next (t.advanced i))
      ∧ (¬Fits i s → exec i s = faultOf s i (.outOfRange (s.pc.toNat + i.length) none) t)

/-! ## Arithmetic and logic -/

/-- R150-R152: ADC adds A, the operand and C. In binary mode C is the unsigned overflow and V the signed one. In decimal
mode, for every pair of bytes, `lo` is the adjusted low digit, `hi` the sum before the high-digit adjustment and `hiS`
that sum with the high digits signed. -/
def Obligations.AdcAddsWithCarry : Prop :=
  ∀ (i : Instr) (s : State), i.opcode ∈ [0x69, 0x65, 0x75, 0x6D, 0x7D, 0x79, 0x61, 0x71] →
    (∀ (t : State) (v : Byte) (sum : Nat), s.flags.d = false → (operand i.mode).run s = .ok v s →
      sum = s.a.toNat + v.toNat + s.flags.c.toNat →
      t = { s with
        a := BitVec.ofNat 8 sum
        flags := { s.flags with
          c := decide (0xFF < sum), z := decide (sum % 256 = 0), n := decide (0x80 ≤ sum % 256)
          v := decide (s.a.toInt + v.toInt + s.flags.c.toNat < -128 ∨ 127 < s.a.toInt + v.toInt + s.flags.c.toNat) } } →
      (Fits i s → exec i s = .next (t.advanced i))
        ∧ (¬Fits i s → exec i s = faultOf s i (.outOfRange (s.pc.toNat + i.length) none) t))
      ∧ (∀ (t : State) (v : Byte) (low lo hi adj : Nat) (hiS : Int), s.flags.d = true →
        (operand i.mode).run s = .ok v s →
        low = s.a.toNat % 16 + v.toNat % 16 + s.flags.c.toNat →
        lo = (if 10 ≤ low then (low + 6) % 16 + 16 else low) →
        hi = s.a.toNat / 16 * 16 + v.toNat / 16 * 16 + lo →
        hiS = (if s.a.toNat < 128 then ((s.a.toNat / 16 * 16 : Nat) : Int) else (s.a.toNat / 16 * 16 : Nat) - 256)
          + (if v.toNat < 128 then ((v.toNat / 16 * 16 : Nat) : Int) else (v.toNat / 16 * 16 : Nat) - 256) + lo →
        adj = (if 0xA0 ≤ hi then hi + 0x60 else hi) →
        t = { s with
          a := BitVec.ofNat 8 adj
          flags := { s.flags with
            c := decide (0x100 ≤ adj)
            z := decide ((s.a.toNat + v.toNat + s.flags.c.toNat) % 256 = 0)
            n := decide (hi / 128 % 2 = 1)
            v := decide (hiS < -128 ∨ 127 < hiS) } } →
      (Fits i s → exec i s = .next (t.advanced i))
        ∧ (¬Fits i s → exec i s = faultOf s i (.outOfRange (s.pc.toNat + i.length) none) t))
      ∧ ∀ k : FaultKind, (operand i.mode).run s = .error k s → exec i s = faultOf s i k s

/-- R153, R154: SBC subtracts the operand and the borrow. In both modes the flags are those of the binary difference: C is
the inverse of the borrow, V the signed overflow. A is the difference, or in decimal mode DecimalSBC for every pair of
bytes. -/
def Obligations.SbcSubtractsWithBorrow : Prop :=
  ∀ (i : Instr) (s : State), i.opcode ∈ [0xE9, 0xE5, 0xF5, 0xED, 0xFD, 0xF9, 0xE1, 0xF1] →
    (∀ (t : State) (v r : Byte) (diff : Int), (operand i.mode).run s = .ok v s →
      diff = s.a.toNat - v.toNat - (1 - s.flags.c.toNat : Int) →
      (s.flags.d = false ∧ r = BitVec.ofInt 8 diff
        ∨ s.flags.d = true ∧ ∃ low lo hi : Int,
          low = (s.a.toNat % 16 : Int) - v.toNat % 16 + s.flags.c.toNat - 1
            ∧ lo = (if low < 0 then (low - 6) % 16 - 16 else low)
            ∧ hi = (s.a.toNat / 16 * 16 : Int) - v.toNat / 16 * 16 + lo
            ∧ r = BitVec.ofInt 8 (if hi < 0 then hi - 0x60 else hi)) →
      t = { s with
        a := r
        flags := { s.flags with
          c := decide (0 ≤ diff), z := decide (diff % 256 = 0), n := decide (0x80 ≤ diff % 256)
          v := decide (s.a.toInt - v.toInt - (1 - s.flags.c.toNat : Int) < -128
            ∨ 127 < s.a.toInt - v.toInt - (1 - s.flags.c.toNat : Int)) } } →
      (Fits i s → exec i s = .next (t.advanced i))
        ∧ (¬Fits i s → exec i s = faultOf s i (.outOfRange (s.pc.toNat + i.length) none) t))
      ∧ ∀ k : FaultKind, (operand i.mode).run s = .error k s → exec i s = faultOf s i k s

/-- On two-digit decimal numbers the decimal adder adds and the decimal subtractor subtracts, modulo 100, with the carry
or borrow of the decimal operation. Derived from R152-R154; no rule states it. -/
def Obligations.DecimalArithmeticOnDigits : Prop :=
  ∀ (a b m n : Nat) (c : Bool), a < 10 → b < 10 → m < 10 → n < 10 →
    (decimalAdc (BitVec.ofNat 8 (16 * a + b)) (BitVec.ofNat 8 (16 * m + n)) c).r.toNat
        = ((10 * a + b + (10 * m + n) + c.toNat) % 100) / 10 * 16 + ((10 * a + b + (10 * m + n) + c.toNat) % 10)
      ∧ ((decimalAdc (BitVec.ofNat 8 (16 * a + b)) (BitVec.ofNat 8 (16 * m + n)) c).c = true
        ↔ 100 ≤ 10 * a + b + (10 * m + n) + c.toNat)
      ∧ (decimalSbc (BitVec.ofNat 8 (16 * a + b)) (BitVec.ofNat 8 (16 * m + n)) c).toNat
        = ((100 + (10 * a + b) - (10 * m + n) - (1 - c.toNat)) % 100) / 10 * 16
          + ((100 + (10 * a + b) - (10 * m + n) - (1 - c.toNat)) % 10)

/-- R155, R156, R157: AND, ORA and EOR, bit by bit; Z and N from the result, C and V unchanged. -/
def Obligations.LogicOperations : Prop :=
  ∀ (i : Instr) (s t : State) (v r : Byte),
    ((i.opcode ∈ [0x29, 0x25, 0x35, 0x2D, 0x3D, 0x39, 0x21, 0x31]
        ∧ ∀ k < 8, r.getLsbD k = (s.a.getLsbD k && v.getLsbD k))
      ∨ (i.opcode ∈ [0x09, 0x05, 0x15, 0x0D, 0x1D, 0x19, 0x01, 0x11]
        ∧ ∀ k < 8, r.getLsbD k = (s.a.getLsbD k || v.getLsbD k))
      ∨ (i.opcode ∈ [0x49, 0x45, 0x55, 0x4D, 0x5D, 0x59, 0x41, 0x51]
        ∧ ∀ k < 8, r.getLsbD k = (s.a.getLsbD k != v.getLsbD k))) →
    ((operand i.mode).run s = .ok v s → t = { s with a := r, flags := s.flags.nz r } →
      (Fits i s → exec i s = .next (t.advanced i))
        ∧ (¬Fits i s → exec i s = faultOf s i (.outOfRange (s.pc.toNat + i.length) none) t))
      ∧ ∀ k : FaultKind, (operand i.mode).run s = .error k s → exec i s = faultOf s i k s

/-- R158-R161: CMP, CPX and CPY write C, Z and N and nothing else; C says register >= operand (unsigned) and N is bit 7 of
the difference modulo 256. -/
def Obligations.ComparesSetFlags : Prop :=
  ∀ (i : Instr) (s t : State) (r m : Byte),
    ((i.opcode ∈ [0xC9, 0xC5, 0xD5, 0xCD, 0xDD, 0xD9, 0xC1, 0xD1] ∧ r = s.a)
      ∨ (i.opcode ∈ [0xE0, 0xE4, 0xEC] ∧ r = s.x) ∨ (i.opcode ∈ [0xC0, 0xC4, 0xCC] ∧ r = s.y)) →
    ((operand i.mode).run s = .ok m s →
      t = { s with flags := { s.flags with
        c := decide (m.toNat ≤ r.toNat), z := decide (r.toNat = m.toNat)
        n := decide (0x80 ≤ ((r.toNat : Int) - m.toNat) % 256) } } →
      (Fits i s → exec i s = .next (t.advanced i))
        ∧ (¬Fits i s → exec i s = faultOf s i (.outOfRange (s.pc.toNat + i.length) none) t))
      ∧ ∀ k : FaultKind, (operand i.mode).run s = .error k s → exec i s = faultOf s i k s

/-- R162: BIT takes Z from A and memory, N and V from bits 7 and 6 of memory; A and C unchanged. -/
def Obligations.BitTestsMemory : Prop :=
  ∀ (i : Instr) (s t : State) (v : Byte), i.opcode ∈ [0x24, 0x2C] →
    ((operand i.mode).run s = .ok v s →
      t = { s with flags := { s.flags with
        z := decide (∀ k : Fin 8, (s.a.getLsbD k && v.getLsbD k) = false)
        n := decide (v.toNat / 128 % 2 = 1), v := decide (v.toNat / 64 % 2 = 1) } } →
      (Fits i s → exec i s = .next (t.advanced i))
        ∧ (¬Fits i s → exec i s = faultOf s i (.outOfRange (s.pc.toNat + i.length) none) t))
      ∧ ∀ k : FaultKind, (operand i.mode).run s = .error k s → exec i s = faultOf s i k s

/-- R163, R164: INC and DEC read the byte at the effective address once and write it back plus or minus 1 modulo 256, with
Z and N from the result; C and V unchanged; every other address reads as before. A write that raises comes after the
read, and then no flag and no PC is written. -/
def Obligations.IncDecMemory : Prop :=
  ∀ (i : Instr) (s : State) (a : Addr) (r : Byte),
    ((i.opcode ∈ [0xE6, 0xF6, 0xEE, 0xFE] ∧ r.toNat = ((s.peek a).toNat + 1) % 256)
      ∨ (i.opcode ∈ [0xC6, 0xD6, 0xCE, 0xDE] ∧ r.toNat = ((s.peek a).toNat + 255) % 256)) →
    ((ea i.mode).run s = .ok a s →
      (Writable s a → ∃ t : State, (memWrite a r).run s = .ok () t ∧ OnlyStoredAt s t a
        ∧ (Fits i s → exec i s = .next ({ t with flags := s.flags.nz r }.advanced i))
        ∧ (¬Fits i s →
          exec i s = faultOf s i (.outOfRange (s.pc.toNat + i.length) none) { t with flags := s.flags.nz r }))
        ∧ (Readable s a → ∀ k : FaultKind, (memWrite a r).run s = .error k s → exec i s = faultOf s i k s)
        ∧ (¬Readable s a → exec i s = faultOf s i (.ignoredHardwareAccess a .read) s))
      ∧ ∀ k : FaultKind, (ea i.mode).run s = .error k s → exec i s = faultOf s i k s

/-- R165-R168: INX, INY, DEX and DEY step their register modulo 256 and set Z and N; C unchanged. -/
def Obligations.IncDecRegisters : Prop :=
  ∀ (i : Instr) (s t : State) (r : Byte),
    ((i.opcode = 0xE8 ∧ r.toNat = (s.x.toNat + 1) % 256 ∧ t = { s with x := r, flags := s.flags.nz r })
      ∨ (i.opcode = 0xC8 ∧ r.toNat = (s.y.toNat + 1) % 256 ∧ t = { s with y := r, flags := s.flags.nz r })
      ∨ (i.opcode = 0xCA ∧ r.toNat = (s.x.toNat + 255) % 256 ∧ t = { s with x := r, flags := s.flags.nz r })
      ∨ (i.opcode = 0x88 ∧ r.toNat = (s.y.toNat + 255) % 256 ∧ t = { s with y := r, flags := s.flags.nz r })) →
    (Fits i s → exec i s = .next (t.advanced i))
      ∧ (¬Fits i s → exec i s = faultOf s i (.outOfRange (s.pc.toNat + i.length) none) t)

/-! ## Shifts and rotates -/

/-- R180-R184: a shift or rotate of A, or of the byte at the effective address (one read and one write there; every other
address reads as before): the result, the carry out, Z and N from the result, nothing else. A write that raises comes
after the read, and then C, Z, N and PC are not written. -/
def Obligations.ShiftsAndRotates : Prop :=
  (∀ (i : Instr) (s t : State) (r : Byte) (c : Bool),
    ((i.opcode = 0x0A ∧ r.toNat = 2 * s.a.toNat % 256 ∧ c = decide (0x80 ≤ s.a.toNat))
      ∨ (i.opcode = 0x4A ∧ r.toNat = s.a.toNat / 2 ∧ c = decide (s.a.toNat % 2 = 1))
      ∨ (i.opcode = 0x2A ∧ r.toNat = (2 * s.a.toNat + s.flags.c.toNat) % 256 ∧ c = decide (0x80 ≤ s.a.toNat))
      ∨ (i.opcode = 0x6A ∧ r.toNat = s.a.toNat / 2 + 128 * s.flags.c.toNat ∧ c = decide (s.a.toNat % 2 = 1))) →
    t = { s with a := r, flags := { s.flags with c := c }.nz r } →
    (Fits i s → exec i s = .next (t.advanced i))
      ∧ (¬Fits i s → exec i s = faultOf s i (.outOfRange (s.pc.toNat + i.length) none) t))
  ∧ ∀ (i : Instr) (s : State) (a : Addr) (r : Byte) (c : Bool) (v : Nat), v = (s.peek a).toNat →
    ((i.opcode ∈ [0x06, 0x16, 0x0E, 0x1E] ∧ r.toNat = 2 * v % 256 ∧ c = decide (0x80 ≤ v))
      ∨ (i.opcode ∈ [0x46, 0x56, 0x4E, 0x5E] ∧ r.toNat = v / 2 ∧ c = decide (v % 2 = 1))
      ∨ (i.opcode ∈ [0x26, 0x36, 0x2E, 0x3E] ∧ r.toNat = (2 * v + s.flags.c.toNat) % 256 ∧ c = decide (0x80 ≤ v))
      ∨ (i.opcode ∈ [0x66, 0x76, 0x6E, 0x7E] ∧ r.toNat = v / 2 + 128 * s.flags.c.toNat ∧ c = decide (v % 2 = 1))) →
    ((ea i.mode).run s = .ok a s →
      (Writable s a → ∃ t : State, (memWrite a r).run s = .ok () t ∧ OnlyStoredAt s t a
        ∧ (Fits i s → exec i s = .next ({ t with flags := { s.flags with c := c }.nz r }.advanced i))
        ∧ (¬Fits i s →
          exec i s = faultOf s i (.outOfRange (s.pc.toNat + i.length) none) { t with flags := { s.flags with c := c }.nz r }))
        ∧ (Readable s a → ∀ k : FaultKind, (memWrite a r).run s = .error k s → exec i s = faultOf s i k s)
        ∧ (¬Readable s a → exec i s = faultOf s i (.ignoredHardwareAccess a .read) s))
      ∧ ∀ k : FaultKind, (ea i.mode).run s = .error k s → exec i s = faultOf s i k s

/-- R245, R69, R71: a store or a read-modify-write to OS ROM (but 0xFE30) or to the paged-ROM window raises
ReadOnlyViolation naming the region, the address and the value it would have written (the register, or the result made
from the byte read there), and changes nothing. -/
def Obligations.RomWritesFault : Prop :=
  ∀ (i : Instr) (s : State) (a : Addr) (v : Byte) (n : Nat), n = (s.peek a).toNat →
    ((i.mnemonic = .sta ∧ v = s.a) ∨ (i.mnemonic = .stx ∧ v = s.x) ∨ (i.mnemonic = .sty ∧ v = s.y)
      ∨ (i.mnemonic = .inc ∧ v.toNat = (n + 1) % 256) ∨ (i.mnemonic = .dec ∧ v.toNat = (n + 255) % 256)
      ∨ (i.mode ≠ .implied
        ∧ ((i.mnemonic = .asl ∧ v.toNat = 2 * n % 256) ∨ (i.mnemonic = .lsr ∧ v.toNat = n / 2)
          ∨ (i.mnemonic = .rol ∧ v.toNat = (2 * n + s.flags.c.toNat) % 256)
          ∨ (i.mnemonic = .ror ∧ v.toNat = n / 2 + 128 * s.flags.c.toNat)))) →
    (ea i.mode).run s = .ok a s →
    (0x8000 ≤ a.toNat ∧ a.toNat ≤ 0xBFFF →
      exec i s = faultOf s i (.readOnlyViolation (.pagedRom s.selectedBank) a v) s)
      ∧ (0xC000 ≤ a.toNat → isIgnored a.toNat = false → a.toNat ≠ 0xFE30 →
        ¬(0xFE40 ≤ a.toNat ∧ a.toNat ≤ 0xFE4F) → ¬(0xFE60 ≤ a.toNat ∧ a.toNat ≤ 0xFE6F) →
        exec i s = faultOf s i (.readOnlyViolation .osRom a v) s)

/-! ## Branches, jumps, subroutines -/

/-- R190-R198, R116, R119: the eight branches. Not taken: PC + 2 and 2 cycles. Taken: PC + 2 plus the signed offset, 3
cycles and one more when the target's page differs from that of PC + 2; a target outside the address space raises
OutOfRange; no flag is written. A branch to itself is stuck only under DETECT_SELF_LOOP (R242). -/
def Obligations.ConditionalBranches : Prop :=
  ∀ (i : Instr) (s : State) (off : Byte) (taken : Bool) (dest : Int), i.mode = .immediate off →
    ((i.opcode = 0x90 ∧ taken = !s.flags.c) ∨ (i.opcode = 0xB0 ∧ taken = s.flags.c)
      ∨ (i.opcode = 0xF0 ∧ taken = s.flags.z) ∨ (i.opcode = 0xD0 ∧ taken = !s.flags.z)
      ∨ (i.opcode = 0x30 ∧ taken = s.flags.n) ∨ (i.opcode = 0x10 ∧ taken = !s.flags.n)
      ∨ (i.opcode = 0x50 ∧ taken = !s.flags.v) ∨ (i.opcode = 0x70 ∧ taken = s.flags.v)) →
    dest = s.pc.toNat + 2 + off.toInt →
    (0xFFFF < s.pc.toNat + 2 → exec i s = faultOf s i (.outOfRange (s.pc.toNat + 2) none) s)
      ∧ (s.pc.toNat + 2 ≤ 0xFFFF → taken = false →
        exec i s = .next { s with pc := s.pc + 2, cycleCount := s.cycleCount + 2 })
      ∧ (s.pc.toNat + 2 ≤ 0xFFFF → taken = true → dest < 0 ∨ 0xFFFF < dest →
        exec i s = faultOf s i (.outOfRange dest none) s)
      ∧ (s.pc.toNat + 2 ≤ 0xFFFF → taken = true → ∀ (p : Addr) (t : State), (p.toNat : Int) = dest →
        t = { s with
          pc := p, cycleCount := s.cycleCount + (if p.toNat / 256 = (s.pc.toNat + 2) / 256 then 3 else 4) } →
        (p ≠ s.pc ∨ s.cfg.detectSelfLoop = false → exec i s = .next t)
          ∧ (p = s.pc → s.cfg.detectSelfLoop = true → exec i s = faultOf s i (.stuckProgramCounter s.pc) t))

/-- R199: JMP sets PC to its operand (3 cycles) or to the word its pointer designates (5 cycles), and writes nothing else;
a pointer read that raises changes nothing. A jump to itself is stuck only under DETECT_SELF_LOOP (R242). -/
def Obligations.JumpSetsPc : Prop :=
  ∀ (i : Instr) (s : State) (n : Nat), ((i.opcode = 0x4C ∧ n = 3) ∨ (i.opcode = 0x6C ∧ n = 5)) →
    (∀ (p : Addr) (t : State), (ea i.mode).run s = .ok p s → t = { s with pc := p, cycleCount := s.cycleCount + n } →
      (p ≠ s.pc ∨ s.cfg.detectSelfLoop = false → exec i s = .next t)
        ∧ (p = s.pc → s.cfg.detectSelfLoop = true → exec i s = faultOf s i (.stuckProgramCounter s.pc) t))
      ∧ ∀ k : FaultKind, (ea i.mode).run s = .error k s → exec i s = faultOf s i k s

/-- R200: JSR pushes PC + 2, high byte first, and sets PC to its operand; no flag is written. -/
def Obligations.JsrPushesReturnAddress : Prop :=
  ∀ (target : Addr) (s t : State),
    t = { s with
      ram := (s.ram.write (0x0100 + s.sp.toNat) (hiByte (s.pc + 2))).write (0x0100 + (s.sp - 1).toNat) (loByte (s.pc + 2))
      sp := s.sp - 2, pc := target, cycleCount := s.cycleCount + 6 } →
    (s.pc.toNat + 2 ≤ 0xFFFF → target ≠ s.pc ∨ s.cfg.detectSelfLoop = false → exec (.jsrAbs target) s = .next t)
      ∧ (s.pc.toNat + 2 ≤ 0xFFFF → target = s.pc → s.cfg.detectSelfLoop = true →
        exec (.jsrAbs target) s = faultOf s (.jsrAbs target) (.stuckProgramCounter s.pc) t)
      ∧ (0xFFFF < s.pc.toNat + 2 →
        exec (.jsrAbs target) s = faultOf s (.jsrAbs target) (.outOfRange (s.pc.toNat + 2) none) s)

/-- R201: RTS pulls an address, low byte first, and sets PC to it plus 1; SP rises by 2 modulo 256; a pulled 0xFFFF raises
OutOfRange with SP already moved. -/
def Obligations.RtsPullsReturnAddress : Prop :=
  ∀ (s t : State) (p : Nat),
    p = (s.ram.read (0x0100 + (s.sp + 1).toNat)).toNat + 256 * (s.ram.read (0x0100 + (s.sp + 2).toNat)).toNat →
    t = { s with sp := s.sp + 2, pc := BitVec.ofNat 16 (p + 1), cycleCount := s.cycleCount + 6 } →
    (p < 0xFFFF → t.pc ≠ s.pc ∨ s.cfg.detectSelfLoop = false → exec .rts s = .next t)
      ∧ (p < 0xFFFF → t.pc = s.pc → s.cfg.detectSelfLoop = true →
        exec .rts s = faultOf s .rts (.stuckProgramCounter s.pc) t)
      ∧ (p = 0xFFFF → exec .rts s = faultOf s .rts (.outOfRange 0x10000 none) { s with sp := s.sp + 2 })

/-- R201's corner case: JSR followed by RTS returns to the instruction after the JSR with SP restored, whatever the
subroutine's address. -/
def Obligations.JsrThenRtsReturns : Prop :=
  ∀ (target : Addr) (s u : State), s.ram.wf 0x8000 = true → s.cfg.detectSelfLoop = false → s.pc.toNat + 3 ≤ 0xFFFF →
    exec (.jsrAbs target) s = .next u →
    exec .rts u = .next { u with pc := s.pc + 3, sp := s.sp, cycleCount := s.cycleCount + 12 }

/-! ## Stack, flags, system -/

/-- R37, R38: the status byte's bits, and that pulling a pushed status byte restores the six flags and keeps B. -/
def Obligations.StatusByteLayout : Prop :=
  ∀ (f g : Flags) (b : Bool),
    (statusByte b f).toNat
        = 128 * f.n.toNat + 64 * f.v.toNat + 32 + 16 * b.toNat + 8 * f.d.toNat + 4 * f.i.toNat + 2 * f.z.toNat + f.c.toNat
      ∧ pulledFlags (statusByte b f) g = { f with b := g.b }
      ∧ ∀ s : Byte, pulledFlags s g =
          { n := decide (s.toNat / 128 % 2 = 1), v := decide (s.toNat / 64 % 2 = 1), d := decide (s.toNat / 8 % 2 = 1)
            i := decide (s.toNat / 4 % 2 = 1), z := decide (s.toNat / 2 % 2 = 1), c := decide (s.toNat % 2 = 1)
            b := g.b }

/-- R210-R213: PHA and PHP push A or P(1) and write no flag; PLA pulls A and sets Z and N; PLP pulls the six flags and
keeps B. SP moves by 1 modulo 256, and the push changes one byte of page 1. A change of I by PLP takes effect at the
check before the very next dispatch. -/
def Obligations.StackInstructions : Prop :=
  ∀ (i : Instr) (s t : State) (q : Byte), q = s.ram.read (0x0100 + (s.sp + 1).toNat) →
    ((i.opcode = 0x48 ∧ t = { s with ram := s.ram.write (0x0100 + s.sp.toNat) s.a, sp := s.sp - 1 })
      ∨ (i.opcode = 0x08
        ∧ t = { s with ram := s.ram.write (0x0100 + s.sp.toNat) (statusByte true s.flags), sp := s.sp - 1 })
      ∨ (i.opcode = 0x68 ∧ t = { s with a := q, sp := s.sp + 1, flags := s.flags.nz q })
      ∨ (i.opcode = 0x28 ∧ t = { s with sp := s.sp + 1, flags := pulledFlags q s.flags })) →
    (Fits i s → exec i s = .next (t.advanced i))
      ∧ (¬Fits i s → exec i s = faultOf s i (.outOfRange (s.pc.toNat + i.length) none) t)
      ∧ (i.opcode = 0x28 → ∀ u : State, exec i s = .next u → s.nmiPending = false → s.irqPending = true →
        (q.toNat / 4 % 2 = 0 → ∃ w : State, dispatch u = .next w ∧ w.irqPending = false ∧ w.flags.i = true
          ∧ w.pc = addrOfBytes (s.osRom.read 0x3FFE) (s.osRom.read 0x3FFF))
        ∧ (q.toNat / 4 % 2 = 1 → dispatch u = stepInstr u))

/-- R214-R221: each flag instruction writes its one flag, NOP writes nothing; PC + 1 and 2 cycles. After CLI a pending IRQ
is the very next dispatch; after SEI it is not. -/
def Obligations.FlagInstructionsAndNop : Prop :=
  ∀ (i : Instr) (s t : State),
    ((i.opcode = 0x18 ∧ t = { s with flags := { s.flags with c := false } })
      ∨ (i.opcode = 0x38 ∧ t = { s with flags := { s.flags with c := true } })
      ∨ (i.opcode = 0x58 ∧ t = { s with flags := { s.flags with i := false } })
      ∨ (i.opcode = 0x78 ∧ t = { s with flags := { s.flags with i := true } })
      ∨ (i.opcode = 0xD8 ∧ t = { s with flags := { s.flags with d := false } })
      ∨ (i.opcode = 0xF8 ∧ t = { s with flags := { s.flags with d := true } })
      ∨ (i.opcode = 0xB8 ∧ t = { s with flags := { s.flags with v := false } })
      ∨ (i.opcode = 0xEA ∧ t = s)) →
    (s.pc.toNat + 1 ≤ 0xFFFF → exec i s = .next { t with pc := s.pc + 1, cycleCount := s.cycleCount + 2 })
      ∧ (s.pc = 0xFFFF → exec i s = faultOf s i (.outOfRange 0x10000 none) t)
      ∧ (i.opcode = 0x58 → ∀ u : State, exec i s = .next u → s.nmiPending = false → s.irqPending = true →
        ∃ w : State, dispatch u = .next w ∧ w.irqPending = false ∧ w.flags.i = true
          ∧ w.pc = addrOfBytes (s.osRom.read 0x3FFE) (s.osRom.read 0x3FFF))
      ∧ (i.opcode = 0x78 → ∀ u : State, exec i s = .next u → s.nmiPending = false → dispatch u = stepInstr u)

/-- R222: BRK pushes PC + 2 and P(1), sets I, and jumps through 0xFFFE; D, the stored B flag and every other flag are
unchanged. -/
def Obligations.BrkTakesInterrupt : Prop :=
  ∀ (s t : State),
    t = { s with
      ram := ((s.ram.write (0x0100 + s.sp.toNat) (hiByte (s.pc + 2))).write (0x0100 + (s.sp - 1).toNat)
        (loByte (s.pc + 2))).write (0x0100 + (s.sp - 2).toNat) (statusByte true s.flags)
      sp := s.sp - 3, flags := { s.flags with i := true }
      pc := addrOfBytes (s.osRom.read 0x3FFE) (s.osRom.read 0x3FFF), cycleCount := s.cycleCount + 7 } →
    (s.pc.toNat + 2 ≤ 0xFFFF → t.pc ≠ s.pc ∨ s.cfg.detectSelfLoop = false → exec .brk s = .next t)
      ∧ (s.pc.toNat + 2 ≤ 0xFFFF → t.pc = s.pc → s.cfg.detectSelfLoop = true →
        exec .brk s = faultOf s .brk (.stuckProgramCounter s.pc) t)
      ∧ (0xFFFF < s.pc.toNat + 2 → exec .brk s = faultOf s .brk (.outOfRange (s.pc.toNat + 2) none) s)

/-- R223: RTI pulls the six flags (B unchanged) and then PC, with no increment; SP rises by 3 modulo 256. A
restored I = 0 lets a pending IRQ be taken before the next dispatch. -/
def Obligations.RtiReturnsFromInterrupt : Prop :=
  ∀ (s t : State),
    t = { s with
      flags := pulledFlags (s.ram.read (0x0100 + (s.sp + 1).toNat)) s.flags
      pc := addrOfBytes (s.ram.read (0x0100 + (s.sp + 2).toNat)) (s.ram.read (0x0100 + (s.sp + 3).toNat))
      sp := s.sp + 3, cycleCount := s.cycleCount + 6 } →
    (t.pc ≠ s.pc ∨ s.cfg.detectSelfLoop = false → exec .rti s = .next t)
      ∧ (t.pc = s.pc → s.cfg.detectSelfLoop = true → exec .rti s = faultOf s .rti (.stuckProgramCounter s.pc) t)
      ∧ (s.nmiPending = false → s.irqPending = true → (s.ram.read (0x0100 + (s.sp + 1).toNat)).toNat / 4 % 2 = 0 →
        ∃ w : State, dispatch t = .next w ∧ w.irqPending = false ∧ w.flags.i = true
          ∧ w.pc = addrOfBytes (s.osRom.read 0x3FFE) (s.osRom.read 0x3FFF))

/-- The round trip of 95_test_vectors.md E4: after BRK and then RTI, PC is the BRK's address plus 2 and every flag, SP,
A, X and Y are as before the BRK, whatever the vector; but for PC, cycleCount and the stacked bytes in RAM the state is
the one before the BRK. -/
def Obligations.BrkThenRtiRestores : Prop :=
  ∀ (s u : State), s.ram.wf 0x8000 = true → s.cfg.detectSelfLoop = false → exec .brk s = .next u →
    exec .rti u = .next { s with ram := u.ram, pc := s.pc + 2, cycleCount := s.cycleCount + 13 }

/-! ## Interrupts, faults and the run loop -/

/-- R251-R255, R257: before each dispatch NMI is taken first, whatever I is; then IRQ if I is clear; then the instruction
at PC. An entry pushes PC and P(0), sets I, leaves D and the other flags, clears its latch, jumps through its vector
and costs 7 cycles. -/
def Obligations.InterruptEntry : Prop :=
  ∀ (s t : State),
    t = { s with
      ram := ((s.ram.write (0x0100 + s.sp.toNat) (hiByte s.pc)).write (0x0100 + (s.sp - 1).toNat)
        (loByte s.pc)).write (0x0100 + (s.sp - 2).toNat) (statusByte false s.flags)
      sp := s.sp - 3, flags := { s.flags with i := true }, cycleCount := s.cycleCount + 7 } →
    (s.nmiPending = true → dispatch s = .next { t with
      pc := addrOfBytes (s.osRom.read 0x3FFA) (s.osRom.read 0x3FFB), nmiPending := false })
      ∧ (s.nmiPending = false → s.irqPending = true → s.flags.i = false → dispatch s = .next { t with
        pc := addrOfBytes (s.osRom.read 0x3FFE) (s.osRom.read 0x3FFF), irqPending := false })
      ∧ (s.nmiPending = false → s.irqPending = false ∨ s.flags.i = true → dispatch s = stepInstr s)

/-- RTI after an IRQ entry resumes at the interrupted instruction with the flags as they were (60_exceptions.md R256,
R263): the pushed PC is the address of the instruction not yet fetched. -/
def Obligations.IrqThenRtiResumes : Prop :=
  ∀ (s u : State), s.ram.wf 0x8000 = true → s.cfg.detectSelfLoop = false →
    (s.nmiPending = true ∨ (s.irqPending = true ∧ s.flags.i = false)) → dispatch s = .next u →
    exec .rti u = .next { u with pc := s.pc, sp := s.sp, flags := s.flags, cycleCount := s.cycleCount + 13 }

/-- What no instruction changes: the ROM images, the latches, the stored B flag, the timers' own state but through a VIA
write, the host's channels, the run loop and the parameters (10_state.md R39, R41; 20_memory.md R69, R71).
repaintRequests is the model's own field (log 11). -/
def Obligations.InstructionFrame : Prop :=
  ∀ (i : Instr) (s t : State), exec i s = .next t →
    t.osRom = s.osRom ∧ t.banks = s.banks ∧ t.irqPending = s.irqPending ∧ t.nmiPending = s.nmiPending
      ∧ t.flags.b = s.flags.b ∧ t.timers = s.timers ∧ t.remainder = s.remainder ∧ t.frameRemaining = s.frameRemaining
      ∧ t.repaintRequests = s.repaintRequests ∧ t.keyPending = s.keyPending ∧ t.cancelRequested = s.cancelRequested
      ∧ t.batch = s.batch ∧ t.run = s.run ∧ t.cfg = s.cfg

/-- Which instructions write a register, a flag or memory (10_state.md R31-R33, R36; 20_memory.md R83): whatever is not
listed for a piece of state leaves it as it was, in every state and for every operand. -/
def Obligations.OnlyListedInstructionsWrite : Prop :=
  ∀ (i : Instr) (s t : State), exec i s = .next t →
    (i.mnemonic ∉ [.lda, .pla, .txa, .tya, .adc, .sbc, .and, .ora, .eor, .asl, .lsr, .rol, .ror] → t.a = s.a)
      ∧ (i.mnemonic ∈ [.asl, .lsr, .rol, .ror] → i.mode ≠ .implied → t.a = s.a)
      ∧ (i.mnemonic ∉ [.ldx, .tax, .tsx, .inx, .dex] → t.x = s.x)
      ∧ (i.mnemonic ∉ [.ldy, .tay, .iny, .dey] → t.y = s.y)
      ∧ (i.mnemonic ∉ [.txs, .pha, .php, .pla, .plp, .jsr, .rts, .brk, .rti] → t.sp = s.sp)
      ∧ (i.mnemonic ∉ [.cld, .sed, .plp, .rti] → t.flags.d = s.flags.d)
      ∧ (i.mnemonic ∉ [.cli, .sei, .plp, .rti, .brk] → t.flags.i = s.flags.i)
      ∧ (i.mnemonic ∉ [.adc, .sbc, .cmp, .cpx, .cpy, .asl, .lsr, .rol, .ror, .clc, .sec, .plp, .rti] →
        t.flags.c = s.flags.c)
      ∧ (i.mnemonic ∉ [.adc, .sbc, .bit, .clv, .plp, .rti] → t.flags.v = s.flags.v)
      ∧ (i.mnemonic ∈ [.sta, .stx, .sty, .txs, .pha, .php, .clc, .sec, .cli, .sei, .cld, .sed, .clv, .nop, .bcc, .bcs,
          .beq, .bne, .bmi, .bpl, .bvc, .bvs, .jmp, .jsr, .rts, .brk] →
        t.flags.z = s.flags.z ∧ t.flags.n = s.flags.n)
      ∧ (i.mnemonic ∉ [.sta, .stx, .sty, .inc, .dec, .asl, .lsr, .rol, .ror, .pha, .php, .jsr, .brk] → t.ram = s.ram)
      ∧ (i.mnemonic ∉ [.sta, .stx, .sty, .inc, .dec, .asl, .lsr, .rol, .ror] →
        t.selectedBank = s.selectedBank ∧ t.systemVia = s.systemVia ∧ t.userVia = s.userVia)

/-- No instruction reads the latches, the stored B flag, the host's channels or the run loop's and timers' state
(10_state.md R39, R41, R43): from two states that differ in nothing else an instruction does the same. -/
def Obligations.InstructionsIgnoreRunLoopState : Prop :=
  ∀ (i : Instr) (s u : State) (g : State → State),
    (∀ t : State, g t = { t with
      irqPending := u.irqPending, nmiPending := u.nmiPending, keyPending := u.keyPending
      cancelRequested := u.cancelRequested, batch := u.batch, timers := u.timers, remainder := u.remainder
      frameRemaining := u.frameRemaining, repaintRequests := u.repaintRequests
      flags := { t.flags with b := u.flags.b } }) →
    exec i (g s) = match exec i s with
      | .next t => .next (g t)
      | .fault (.raised r t) => .fault (.raised r (g t))
      | .fault (.alreadyStopped t) => .fault (.alreadyStopped t)
      | .refused r => .refused r

/-- The properties of 95_test_vectors.md E8 and E9 with 30_encoding.md R119: an instruction that completes adds its base
cost, a branch at most 2 more, and one that is not a control-flow instruction adds exactly its base cost and advances
PC by exactly its length. -/
def Obligations.CyclesAndPcAdvance : Prop :=
  ∀ (i : Instr) (s t : State), exec i s = .next t →
    s.cycleCount + i.baseCycles ≤ t.cycleCount ∧ t.cycleCount ≤ s.cycleCount + i.baseCycles + 2 ∧ 2 ≤ i.baseCycles
      ∧ (i.isControlFlow = false →
        t.cycleCount = s.cycleCount + i.baseCycles ∧ t.pc.toNat = s.pc.toNat + i.length)

/-- An instruction never refuses, and the only faults it raises are: OutOfRange of an address outside the space;
ReadOnlyViolation at the effective address of a store or read-modify-write that lies in the paged-ROM window, or in OS ROM
where no write is allowed; IgnoredHardwareAccess, under strict mode, of an address in an ignored window; and
StuckProgramCounter for a control-flow instruction under DETECT_SELF_LOOP. In particular no unsupported addressing mode
(30_encoding.md R117). Every report names the dispatch's PC, opcode and cycleCount (R240). That no OutOfRange report
carries a value is log 10 (DEDUCED). -/
def Obligations.InstructionFaults : Prop :=
  ∀ (i : Instr) (s : State),
    (∃ t, exec i s = .next t)
      ∨ ∃ (k : FaultKind) (u : State), exec i s = faultOf s i k u
        ∧ ((∃ n : Int, k = .outOfRange n none ∧ (n < 0 ∨ 0xFFFF < n))
          ∨ (∃ (r : RomRegion) (a : Addr) (v : Byte), k = .readOnlyViolation r a v ∧ (ea i.mode).run s = .ok a s
            ∧ i.mnemonic ∈ [.sta, .stx, .sty, .inc, .dec, .asl, .lsr, .rol, .ror]
            ∧ ((r = .pagedRom s.selectedBank ∧ 0x8000 ≤ a.toNat ∧ a.toNat ≤ 0xBFFF)
              ∨ (r = .osRom ∧ 0xC000 ≤ a.toNat ∧ isIgnored a.toNat = false ∧ ¬Writable s a)))
          ∨ (s.cfg.strictIgnored = true
            ∧ ∃ (a : Addr) (x : Access), k = .ignoredHardwareAccess a x ∧ isIgnored a.toNat = true)
          ∨ (s.cfg.detectSelfLoop = true ∧ i.isControlFlow = true ∧ k = .stuckProgramCounter s.pc))

/-- A step runs the decoded instruction: with the machine running, no cancel before a batch and no interrupt to take, the
step is exec of the fetched instruction in the open batch, followed by the batch's accounting (60_exceptions.md R257,
R258, R260; the step's granularity is log 5). -/
def Obligations.StepRunsDecodedInstruction : Prop :=
  ∀ (s : State) (i : Instr), s.run = .running → (s.batch ≠ none ∨ s.cancelRequested = false) → s.nmiPending = false →
    (s.irqPending = false ∨ s.flags.i = true) → fetch s = .instr i →
    step s = match exec i (openBatch s) with
      | .next t => .next (account s.cycleCount t)
      | .fault f => .fault f
      | .refused r => .refused r

/-- R260: a batch opens with the TimerManager's bound (at least 1) or DEFAULT_BATCH_CYCLES as its budget and 0 used; each
dispatch adds its cycles to `used`; the batch goes on below the budget and BatchEnd runs once it is reached. -/
def Obligations.BatchRunsToItsBudget : Prop :=
  ∀ (s t : State) (b : Batch), s.run = .running → (s.batch ≠ none ∨ s.cancelRequested = false) →
    (s.batch = some b ∨ (s.batch = none ∧ b.used = 0
      ∧ b.budget = (match availableCpuTicks s with
        | some n => max n 1
        | none => s.cfg.defaultBatchCycles))) →
    dispatch { s with batch := some b } = .next t →
    step s = .next (if b.used + (t.cycleCount - s.cycleCount) < b.budget
      then { t with batch := some { b with used := b.used + (t.cycleCount - s.cycleCount) } }
      else batchEnd (b.used + (t.cycleCount - s.cycleCount)) t)

/-- The effect of R261's BatchEnd (BatchRunsToItsBudget says when it runs): it ticks the timers with the cycles used,
exchanges keyPending with false, forces the System VIA's IFR to 0xFF when it was set, and ORs the latches; it writes no
register, no flag and no memory. No timer requests NMI (R249, R291, R294). repaintRequests is the model's own field
(log 11). -/
def Obligations.BatchEndMergesInterrupts : Prop :=
  ∀ (s u : State) (st : InterruptState) (n : Nat), cpuTick n s = (u, st) →
    batchEnd n s = { u with
      keyPending := false, batch := none
      systemVia := if s.keyPending then { u.systemVia with ifr := 0xFF } else u.systemVia
      irqPending := s.irqPending || st.irq || s.keyPending
      nmiPending := s.nmiPending || st.nmi }
      ∧ u = { s with
        systemVia := u.systemVia, userVia := u.userVia, remainder := u.remainder, frameRemaining := u.frameRemaining
        repaintRequests := u.repaintRequests }
      ∧ st.nmi = false

/-- The key interrupt from end to end (60_exceptions.md R249, R261, R303, 70_reset_and_hazards.md R342): a key that the host
sets during a batch is consumed at its end, forces the System VIA's IFR to 0xFF and latches IRQ; with I clear the very
next dispatch is the IRQ entry, and with I set the IRQ waits. -/
def Obligations.KeyPressInterruptsAtBatchEnd : Prop :=
  ∀ (s t : State) (n : Nat), s.nmiPending = false → t = batchEnd n (hostSetPendingInterrupt s) →
    t.keyPending = false ∧ t.systemVia.get 0xD = 0xFF ∧ t.irqPending = true
      ∧ (s.flags.i = false → ∃ u : State, dispatch t = .next u ∧ u.irqPending = false ∧ u.flags.i = true
        ∧ u.sp = s.sp - 3 ∧ u.pc = addrOfBytes (s.osRom.read 0x3FFE) (s.osRom.read 0x3FFF)
        ∧ u.cycleCount = s.cycleCount + 7)
      ∧ (s.flags.i = true → dispatch t = stepInstr t)

/-- R262, R240: cancel is tested before each batch and stops the machine with nothing else changed; a batch already
begun goes on; a stopped machine dispatches nothing. -/
def Obligations.CancelAndStop : Prop :=
  ∀ s : State,
    (s.run = .running → s.batch = none → s.cancelRequested = true → step s = .next { s with run := .stoppedCancel })
      ∧ (∀ t : State, s.run = .running → s.batch ≠ none → step s = .next t → t.run = .running)
      ∧ (s.run = .stoppedCancel → step s = .fault (.alreadyStopped s))
      ∧ ∀ r : FaultReport, s.run = .stoppedFault r → step s = .fault (.alreadyStopped s)

/-- What the whole machine promises over a step: ROM, the bank map, the registered timers and the parameters never change
(20_memory.md R69, R71; 70_reset_and_hazards.md R335); a latch is set, a timer moves and keyPending is consumed only by
a step that ends a batch (R250); and every dispatch adds at least 2 cycles, so cycleCount grows unless the step is the
stop by cancel (R259). repaintRequests is the model's own field (log 11). -/
def Obligations.StepWideRules : Prop :=
  ∀ (s t : State), step s = .next t →
    (t.osRom = s.osRom ∧ t.banks = s.banks ∧ t.timers = s.timers ∧ t.cfg = s.cfg)
      ∧ (t.batch ≠ none →
        (t.irqPending = true → s.irqPending = true) ∧ (t.nmiPending = true → s.nmiPending = true)
          ∧ t.keyPending = s.keyPending ∧ t.remainder = s.remainder ∧ t.frameRemaining = s.frameRemaining
          ∧ t.repaintRequests = s.repaintRequests)
      ∧ t.cancelRequested = s.cancelRequested
      ∧ (t.run = .stoppedCancel ∧ t = { s with run := .stoppedCancel } ∨ s.cycleCount + 2 ≤ t.cycleCount)

/-! ## The VIA and the timers -/

/-- R272-R277, R283, R286: every register but IER reads back the byte written, IER sets or clears its low 7 bits and reads
with bit 7 set, no write changes what another register reads, forceIFR writes 0xFF to IFR and nothing else, and an offset
past 0xF reads 0 and drops a write. -/
def Obligations.ViaRegisterFile : Prop :=
  ∀ (via : Via) (o : Nat) (v : Byte),
    (o ≤ 0xF → o ≠ 0xE → (via.set o v).get o = v)
      ∧ (∀ p : Nat, p ≠ o → (via.set o v).get p = via.get p)
      ∧ (via.get 0xE).getLsbD 7 = true
      ∧ (∀ k < 7, (via.get 0xE).getLsbD k = via.ier.getLsbD k
        ∧ ((via.set 0xE v).get 0xE).getLsbD k
          = if 0x80 ≤ v.toNat then via.ier.getLsbD k || v.getLsbD k else via.ier.getLsbD k && !v.getLsbD k)
      ∧ (via.ier.getLsbD 7 = false → (via.set o v).ier.getLsbD 7 = false)
      ∧ via.forceIfr = { via with ifr := 0xFF }
      ∧ (0xF < o → via.get o = 0 ∧ via.set o v = via)

/-- R278-R282: the control lines follow a PCR write's bits 3-1 and 7-5 and no other write; the Timer 1 latch, counter and
run state follow writes of offsets 4-7 and no other; each of these registers also stores its byte. -/
def Obligations.ViaControlLinesAndTimerWrites : Prop :=
  ∀ (via : Via) (o : Nat) (v : Byte),
    (o ≠ 0xC → (via.set o v).ca2 = via.ca2 ∧ (via.set o v).cb2 = via.cb2)
      ∧ ((via.set 0xC v).ca2 = if v.toNat / 2 % 8 = 6 then false else if v.toNat / 8 % 2 = 1 then true else via.ca2)
      ∧ ((via.set 0xC v).cb2 = if v.toNat / 32 = 6 then false else if v.toNat / 128 = 1 then true else via.cb2)
      ∧ (o ∉ [4, 5, 6, 7] → (via.set o v).t1 = via.t1)
      ∧ (o ∈ [4, 6] → ∃ n : Addr, n.toNat = via.t1.latch.toNat / 256 * 256 + v.toNat
        ∧ (via.set o v).t1 = { via.t1 with latch := n })
      ∧ (∃ n : Addr, n.toNat = 256 * v.toNat + via.t1.latch.toNat % 256
        ∧ (via.set 7 v).t1 = { via.t1 with latch := n }
        ∧ (via.set 5 v).t1 = { latch := n, counter := n, running := true, reloadPending := false })
      ∧ (via.set 5 v).ifr = via.ifr
      ∧ ∀ r : Nat, r ∈ [4, 5, 6, 7, 0xC] → (via.set r v).get r = v

/-- R291-R293: a stopped Timer 1 does nothing; a running one fires on exactly the tick its availableTicks names, not
before, sets IFR bit 6 (and bit 7 when enabled) and requests IRQ exactly when IER bit 6 is set; after a firing the next
is latch + 2 ticks away, and after a T1C-H write that leaves latch N the first is N + 1 away. It never requests NMI. -/
def Obligations.Timer1FiresOnItsTick : Prop :=
  ∀ (via : Via) (m n : Nat) (v : Byte),
    (via.t1.running = false → via.t1.availableTicks = none ∧ via.systemTick m = (via, { irq := false, nmi := false }))
      ∧ (via.t1.availableTicks = some n →
        ∃ t1 : T1, t1.latch = via.t1.latch ∧ t1.running = true
          ∧ (m < n → via.systemTick m = ({ via with t1 := t1 }, { irq := false, nmi := false })
            ∧ t1.availableTicks = some (n - m))
          ∧ (n ≤ m → via.systemTick m
            = ({ via with t1 := t1, ifr := via.ifr ||| 0x40 ||| (if via.ier.getLsbD 6 then 0x80 else 0) },
              { irq := via.ier.getLsbD 6, nmi := false }))
          ∧ (m = n → t1.availableTicks = some (via.t1.latch.toNat + 2)))
      ∧ (via.set 5 v).t1.availableTicks = some ((via.set 5 v).t1.latch.toNat + 1)

/-- R294, R295: `m` ticks of the frame timer pass one boundary for every FRAME_PERIOD ticks, each requesting one repaint;
with FRAME_IRQ = system_via_ca1 a boundary sets the System VIA's IFR bit 1 (and bit 7 when enabled) and requests IRQ
exactly when IER bit 1 is set; nothing else changes. The repaint requests are counted in repaintRequests, the model's own
field (log 11, DESIGN CHOICE). -/
def Obligations.FrameTimerBoundaries : Prop :=
  ∀ (s : State) (m b : Nat), 1 ≤ s.frameRemaining → s.frameRemaining ≤ 20000 →
    b = (20000 - s.frameRemaining + m) / 20000 →
    availableTicks .frame s = some s.frameRemaining
      ∧ systemTick .frame s m =
        ({ s with
            frameRemaining := 20000 - (20000 - s.frameRemaining + m) % 20000
            repaintRequests := s.repaintRequests + b
            systemVia := if s.cfg.frameIrq = .systemViaCa1 ∧ 1 ≤ b then
              { s.systemVia with ifr := s.systemVia.ifr ||| 0x02 ||| (if s.systemVia.ier.getLsbD 1 then 0x80 else 0) }
              else s.systemVia },
          { irq := decide (s.cfg.frameIrq = .systemViaCa1 ∧ 1 ≤ b) && s.systemVia.ier.getLsbD 1, nmi := false })

/-- R298: the cycles and the remainder kept from before make `total / 2` system ticks and leave `total % 2`; with no whole
tick or no timer nothing else happens; otherwise every registered timer gets all the ticks and the result is the OR of
what each would answer alone, in any order of the timers. -/
def Obligations.CpuTickMergesTimers : Prop :=
  ∀ (n total : Nat) (s : State) (l : List TimerName), total = n + s.remainder → s.timers.Nodup →
    (cpuTick n s).1.remainder = total % 2
      ∧ (total < 2 ∨ s.timers = [] → cpuTick n s = ({ s with remainder := total % 2 }, { irq := false, nmi := false }))
      ∧ (2 ≤ total →
        (cpuTick n s).2
            = { irq := s.timers.any fun tm => (systemTick tm s (total / 2)).2.irq
                nmi := s.timers.any fun tm => (systemTick tm s (total / 2)).2.nmi }
          ∧ (cpuTick n s).1.systemVia.t1
            = (if .systemViaT1 ∈ s.timers then s.systemVia.systemTick (total / 2) else (s.systemVia, .none)).1.t1
          ∧ (cpuTick n s).1.userVia
            = (if .userViaT1 ∈ s.timers then s.userVia.systemTick (total / 2) else (s.userVia, .none)).1
          ∧ (cpuTick n s).1.frameRemaining
            = if .frame ∈ s.timers then (systemTick .frame s (total / 2)).1.frameRemaining else s.frameRemaining)
      ∧ (l.Perm s.timers →
        cpuTick n { s with timers := l } = ({ (cpuTick n s).1 with timers := l }, (cpuTick n s).2))

/-- R299, R290: availableCpuTicks is twice the least bound any registered timer gives, and no limit exactly when none
gives one. -/
def Obligations.AvailableCpuTicksIsLeastBound : Prop :=
  ∀ (s : State) (n : Nat),
    (availableCpuTicks s = some n ↔
      (∃ tm ∈ s.timers, ∃ t : Nat, availableTicks tm s = some t ∧ n = 2 * t)
        ∧ ∀ tm ∈ s.timers, ∀ t : Nat, availableTicks tm s = some t → n ≤ 2 * t)
      ∧ (availableCpuTicks s = none ↔ ∀ tm ∈ s.timers, availableTicks tm s = none)

/-! ## Launch, reset and the invariant -/

/-- R330, R335, 10_state.md R52: a launch whose images have their exact sizes starts with the images in place, the open
registers and flags as RESET_REGS says, PC read from 0xFFFC, I set, B clear, no latch, no cycle, bank 0x0F, both VIAs
all zero, the three timers and the first batch not yet open, its budget 40000 (R333). A launch with a ROM image of another
size is refused (R335); that one with a RAM content of another size is refused too is log 15 (DEDUCED). -/
def Obligations.LaunchStartsTheMachine : Prop :=
  ∀ (l : Launch),
    (l.wellFormed = true → ∃ s : State, launch l = some s ∧ Inv s
      ∧ s.a = l.regs.a ∧ s.x = l.regs.x ∧ s.y = l.regs.y ∧ s.sp = l.regs.sp
      ∧ s.flags = { c := l.regs.c, z := l.regs.z, i := true, d := l.regs.d, b := false, v := l.regs.v, n := l.regs.n }
      ∧ s.pc.toNat = (l.osRom.getD 0x3FFC 0).toNat + 256 * (l.osRom.getD 0x3FFD 0).toNat
      ∧ (∀ a < 32768, s.ram.read a = l.ramInit.getD a 0) ∧ (∀ o < 16384, s.osRom.read o = l.osRom.getD o 0)
      ∧ (∀ e ∈ l.banks, ∃ m : Memory, bankImage e.1 s.banks = some m ∧ ∀ o < 16384, m.read o = e.2.getD o 0)
      ∧ s.irqPending = false ∧ s.nmiPending = false ∧ s.keyPending = false ∧ s.cancelRequested = false
      ∧ s.cycleCount = 0 ∧ s.selectedBank = 0x0F
      ∧ (∀ via ∈ [s.systemVia, s.userVia], (∀ o ≤ 0xF, via.get o = if o = 0xE then 0x80 else 0)
        ∧ via.ca2 = false ∧ via.cb2 = false
        ∧ via.t1 = { latch := 0, counter := 0, running := false, reloadPending := false })
      ∧ s.timers = [.systemViaT1, .userViaT1, .frame] ∧ s.remainder = 0 ∧ s.frameRemaining = 20000
      ∧ availableCpuTicks s = some 40000 ∧ s.batch = none ∧ s.run = .running ∧ s.cfg = l.cfg)
      ∧ (l.ramInit.length ≠ 32768 ∨ l.osRom.length ≠ 16384 ∨ (∃ e ∈ l.banks, e.2.length ≠ 16384) → launch l = none)

/-- The invariant of the block holds at reset. -/
def Obligations.InvAtReset : Prop := Inv State.reset

/-- The invariant of the block is kept by every step: memory stays canonical, B stays false, IER bit 7 stays 0, the
timers stay in range, an open batch stays below its budget. -/
def Obligations.InvKeptByStep : Prop := ∀ (s t : State), Inv s → step s = .next t → Inv t
end

