-- ==== Sys2Proof/Laws/Memory.lean ====
section
/-! SUPPORT. The laws of byte storage: read after write, and every operation keeps the canonical form. -/

namespace Sys2Proof.Machine.Memory

theorem read_write_same (m : Memory) (a : Nat) (v : Byte) (lo size : Nat) (h : wfFrom size lo m = true) :
    (m.write a v).read a = v := by
  induction m generalizing lo with
  | nil =>
    simp only [write]
    split
    · next hv => simp [read, hv]
    · simp [read]
  | cons e m ih =>
    obtain ⟨k, w⟩ := e
    simp only [wfFrom, Bool.and_eq_true, decide_eq_true_eq] at h
    simp only [write]
    have hne : ∀ (m : Memory) (lo : Nat), wfFrom size lo m = true → a < lo → read m a = blank := by
      intro m
      induction m with
      | nil => intros; rfl
      | cons e m ih2 =>
        intro lo hm hlo
        simp only [wfFrom, Bool.and_eq_true, decide_eq_true_eq] at hm
        have : e.1 ≠ a := by omega
        simp only [read, this, if_false]
        exact ih2 _ hm.2 (by omega)
    split
    · next hk =>
      have : k ≠ a := by omega
      simp only [read, this, if_false]
      exact ih _ h.2
    · split
      · next hk =>
        subst hk
        split
        · next hv => subst hv; exact hne m _ h.2 (by omega)
        · simp [read]
      · next h1 h2 =>
        split
        · next hv =>
          subst hv
          simp only [read, h2, if_false]
          exact hne m _ h.2 (by omega)
        · simp [read]

theorem read_write_other (m : Memory) (a b : Nat) (v : Byte) (h : b ≠ a) : (m.write a v).read b = m.read b := by
  induction m with
  | nil =>
    simp only [write]
    split
    · rfl
    · simp [read, Ne.symm h]
  | cons e m ih =>
    obtain ⟨k, w⟩ := e
    simp only [write]
    split
    · simp only [read, ih]
    · split
      · next hk =>
        subst hk
        split <;> simp [read, Ne.symm h]
      · split
        · rfl
        · simp [read, Ne.symm h]

theorem wfFrom_mono (m : Memory) (lo lo' size : Nat) (h : wfFrom size lo' m = true) (hle : lo ≤ lo') :
    wfFrom size lo m = true := by
  cases m with
  | nil => rfl
  | cons e m =>
    simp only [wfFrom, Bool.and_eq_true, decide_eq_true_eq] at h ⊢
    exact ⟨⟨⟨by omega, h.1.1.2⟩, h.1.2⟩, h.2⟩

theorem write_wfFrom (m : Memory) (lo size a : Nat) (v : Byte) (h : wfFrom size lo m = true) (hlo : lo ≤ a)
    (hs : a < size) : wfFrom size lo (m.write a v) = true := by
  induction m generalizing lo with
  | nil =>
    simp only [write]
    split
    · rfl
    · next hv => simp [wfFrom, hlo, hs, hv]
  | cons e m ih =>
    obtain ⟨k, w⟩ := e
    have h' := h
    simp only [wfFrom, Bool.and_eq_true, decide_eq_true_eq] at h
    simp only [write]
    split
    · next hk =>
      simp only [wfFrom, Bool.and_eq_true, decide_eq_true_eq]
      exact ⟨h.1, ih _ h.2 (by omega)⟩
    · split
      · next hk =>
        split
        · exact wfFrom_mono m _ _ _ h.2 (by omega)
        · next hv =>
          simp only [wfFrom, Bool.and_eq_true, decide_eq_true_eq]
          subst hk
          exact ⟨⟨⟨hlo, hs⟩, hv⟩, h.2⟩
      · next h1 h2 =>
        split
        · exact h'
        · next hv =>
          simp only [wfFrom, Bool.and_eq_true, decide_eq_true_eq]
          exact ⟨⟨⟨hlo, hs⟩, hv⟩, ⟨⟨by omega, h.1.1.2⟩, h.1.2⟩, h.2⟩

/-- A write inside the block keeps the canonical form. -/
theorem write_wf (m : Memory) (size a : Nat) (v : Byte) (h : m.wf size = true) (hs : a < size) :
    (m.write a v).wf size = true :=
  write_wfFrom m 0 size a v h (Nat.zero_le a) hs

/-- Read after write at the same address. -/
theorem read_write (m : Memory) (size a : Nat) (v : Byte) (h : m.wf size = true) : (m.write a v).read a = v :=
  read_write_same m a v 0 size h

theorem ofImageFrom_wfFrom (image : List Byte) (k : Nat) : wfFrom (k + image.length) k (ofImageFrom k image) = true := by
  induction image generalizing k with
  | nil => rfl
  | cons b bs ih =>
    have h := ih (k + 1)
    rw [show k + 1 + bs.length = k + (b :: bs).length by simp; omega] at h
    simp only [ofImageFrom]
    split
    · exact wfFrom_mono _ _ _ _ h (by omega)
    · next hb =>
      simp only [wfFrom, Bool.and_eq_true, decide_eq_true_eq]
      exact ⟨⟨⟨by omega, by simp⟩, hb⟩, h⟩

/-- An image's storage is canonical. -/
theorem ofImage_wf (image : List Byte) : (ofImage image).wf image.length = true := by
  have h := ofImageFrom_wfFrom image 0
  rw [Nat.zero_add] at h
  exact h

theorem ofImageFrom_read_below (image : List Byte) (k a : Nat) (h : a < k) : (ofImageFrom k image).read a = blank := by
  induction image generalizing k with
  | nil => rfl
  | cons b bs ih =>
    simp only [ofImageFrom]
    split
    · exact ih _ (by omega)
    · have : k ≠ a := by omega
      simp only [read, this, if_false]
      exact ih _ (by omega)

theorem ofImageFrom_read (image : List Byte) (k i : Nat) :
    (ofImageFrom k image).read (k + i) = image.getD i blank := by
  induction image generalizing k i with
  | nil => simp [ofImageFrom, read]
  | cons b bs ih =>
    cases i with
    | zero =>
      simp only [ofImageFrom, Nat.add_zero]
      split
      · next hb => rw [ofImageFrom_read_below _ _ _ (by omega), hb]; rfl
      · simp [read]
    | succ i =>
      simp only [ofImageFrom]
      have h := ih (k + 1) i
      rw [show k + 1 + i = k + (i + 1) by omega] at h
      split
      · rw [h]; rfl
      · have : k ≠ k + (i + 1) := by omega
        simp only [read, this, if_false, h]; rfl

/-- An image's storage reads as the image. -/
theorem ofImage_read (image : List Byte) (i : Nat) : (ofImage image).read i = image.getD i blank := by
  have h := ofImageFrom_read image 0 i
  rw [Nat.zero_add] at h
  exact h

theorem read_below (m : Memory) (lo size a : Nat) (h : wfFrom size lo m = true) (ha : a < lo) : m.read a = blank := by
  induction m generalizing lo with
  | nil => rfl
  | cons e m ih =>
    simp only [wfFrom, Bool.and_eq_true, decide_eq_true_eq] at h
    have : e.1 ≠ a := by omega
    simp only [read, this, if_false]
    exact ih _ h.2 (by omega)

theorem ext_from (m m' : Memory) (lo size : Nat) (h : wfFrom size lo m = true) (h' : wfFrom size lo m' = true)
    (hr : ∀ a, m.read a = m'.read a) : m = m' := by
  induction m generalizing lo m' with
  | nil =>
    cases m' with
    | nil => rfl
    | cons e' m' =>
      simp only [wfFrom, Bool.and_eq_true, decide_eq_true_eq] at h'
      have := hr e'.1
      simp only [read, if_true] at this
      exact absurd this.symm h'.1.2
  | cons e m ih =>
    obtain ⟨k, w⟩ := e
    cases m' with
    | nil =>
      simp only [wfFrom, Bool.and_eq_true, decide_eq_true_eq] at h
      have := hr k
      simp only [read, if_true] at this
      exact absurd this h.1.2
    | cons e' m' =>
      obtain ⟨k', w'⟩ := e'
      simp only [wfFrom, Bool.and_eq_true, decide_eq_true_eq] at h h'
      have hk : k = k' := by
        rcases Nat.lt_trichotomy k k' with hlt | heq | hgt
        · have := hr k
          have h2 : k' ≠ k := by omega
          simp only [read, if_true, h2, if_false] at this
          rw [read_below m' _ _ k h'.2 (by omega)] at this
          exact absurd this h.1.2
        · exact heq
        · have := hr k'
          have h2 : k ≠ k' := by omega
          simp only [read, if_true, h2, if_false] at this
          rw [read_below m _ _ k' h.2 (by omega)] at this
          exact absurd this.symm h'.1.2
      subst hk
      have hw : w = w' := by have := hr k; simpa only [read, if_true] using this
      subst hw
      have : m = m' := by
        refine ih m' (k + 1) h.2 h'.2 fun a => ?_
        by_cases ha : k = a
        · subst ha
          rw [read_below m _ _ k h.2 (by omega), read_below m' _ _ k h'.2 (by omega)]
        · have := hr a
          simpa only [read, ha, if_false] using this
      rw [this]

/-- Two canonical blocks that read the same everywhere are equal data. -/
theorem ext (m m' : Memory) (size : Nat) (h : m.wf size = true) (h' : m'.wf size = true)
    (hr : ∀ a, m.read a = m'.read a) : m = m' :=
  ext_from m m' 0 size h h' hr

end Sys2Proof.Machine.Memory
end

