-- ==== Sys2Proof/Laws/State.lean ====
section
/-! SUPPORT. One lemma per field per update of State: no later proof unfolds a record update. -/

namespace Sys2Proof.Machine.State

@[simp] theorem withPc_pc (s : State) (p : Addr) : (s.withPc p).pc = p := rfl
@[simp] theorem withPc_a (s : State) (p : Addr) : (s.withPc p).a = s.a := rfl
@[simp] theorem withPc_x (s : State) (p : Addr) : (s.withPc p).x = s.x := rfl
@[simp] theorem withPc_y (s : State) (p : Addr) : (s.withPc p).y = s.y := rfl
@[simp] theorem withPc_sp (s : State) (p : Addr) : (s.withPc p).sp = s.sp := rfl
@[simp] theorem withPc_flags (s : State) (p : Addr) : (s.withPc p).flags = s.flags := rfl
@[simp] theorem withPc_irqPending (s : State) (p : Addr) : (s.withPc p).irqPending = s.irqPending := rfl
@[simp] theorem withPc_nmiPending (s : State) (p : Addr) : (s.withPc p).nmiPending = s.nmiPending := rfl
@[simp] theorem withPc_cycleCount (s : State) (p : Addr) : (s.withPc p).cycleCount = s.cycleCount := rfl
@[simp] theorem withPc_ram (s : State) (p : Addr) : (s.withPc p).ram = s.ram := rfl
@[simp] theorem withPc_osRom (s : State) (p : Addr) : (s.withPc p).osRom = s.osRom := rfl
@[simp] theorem withPc_banks (s : State) (p : Addr) : (s.withPc p).banks = s.banks := rfl
@[simp] theorem withPc_selectedBank (s : State) (p : Addr) : (s.withPc p).selectedBank = s.selectedBank := rfl
@[simp] theorem withPc_systemVia (s : State) (p : Addr) : (s.withPc p).systemVia = s.systemVia := rfl
@[simp] theorem withPc_userVia (s : State) (p : Addr) : (s.withPc p).userVia = s.userVia := rfl
@[simp] theorem withPc_timers (s : State) (p : Addr) : (s.withPc p).timers = s.timers := rfl
@[simp] theorem withPc_remainder (s : State) (p : Addr) : (s.withPc p).remainder = s.remainder := rfl
@[simp] theorem withPc_frameRemaining (s : State) (p : Addr) : (s.withPc p).frameRemaining = s.frameRemaining := rfl
@[simp] theorem withPc_repaintRequests (s : State) (p : Addr) : (s.withPc p).repaintRequests = s.repaintRequests := rfl
@[simp] theorem withPc_keyPending (s : State) (p : Addr) : (s.withPc p).keyPending = s.keyPending := rfl
@[simp] theorem withPc_cancelRequested (s : State) (p : Addr) : (s.withPc p).cancelRequested = s.cancelRequested := rfl
@[simp] theorem withPc_batch (s : State) (p : Addr) : (s.withPc p).batch = s.batch := rfl
@[simp] theorem withPc_run (s : State) (p : Addr) : (s.withPc p).run = s.run := rfl
@[simp] theorem withPc_cfg (s : State) (p : Addr) : (s.withPc p).cfg = s.cfg := rfl

@[simp] theorem withFlags_pc (s : State) (f : Flags) : (s.withFlags f).pc = s.pc := rfl
@[simp] theorem withFlags_a (s : State) (f : Flags) : (s.withFlags f).a = s.a := rfl
@[simp] theorem withFlags_x (s : State) (f : Flags) : (s.withFlags f).x = s.x := rfl
@[simp] theorem withFlags_y (s : State) (f : Flags) : (s.withFlags f).y = s.y := rfl
@[simp] theorem withFlags_sp (s : State) (f : Flags) : (s.withFlags f).sp = s.sp := rfl
@[simp] theorem withFlags_flags (s : State) (f : Flags) : (s.withFlags f).flags = f := rfl
@[simp] theorem withFlags_irqPending (s : State) (f : Flags) : (s.withFlags f).irqPending = s.irqPending := rfl
@[simp] theorem withFlags_nmiPending (s : State) (f : Flags) : (s.withFlags f).nmiPending = s.nmiPending := rfl
@[simp] theorem withFlags_cycleCount (s : State) (f : Flags) : (s.withFlags f).cycleCount = s.cycleCount := rfl
@[simp] theorem withFlags_ram (s : State) (f : Flags) : (s.withFlags f).ram = s.ram := rfl
@[simp] theorem withFlags_osRom (s : State) (f : Flags) : (s.withFlags f).osRom = s.osRom := rfl
@[simp] theorem withFlags_banks (s : State) (f : Flags) : (s.withFlags f).banks = s.banks := rfl
@[simp] theorem withFlags_selectedBank (s : State) (f : Flags) : (s.withFlags f).selectedBank = s.selectedBank := rfl
@[simp] theorem withFlags_systemVia (s : State) (f : Flags) : (s.withFlags f).systemVia = s.systemVia := rfl
@[simp] theorem withFlags_userVia (s : State) (f : Flags) : (s.withFlags f).userVia = s.userVia := rfl
@[simp] theorem withFlags_timers (s : State) (f : Flags) : (s.withFlags f).timers = s.timers := rfl
@[simp] theorem withFlags_remainder (s : State) (f : Flags) : (s.withFlags f).remainder = s.remainder := rfl
@[simp] theorem withFlags_frameRemaining (s : State) (f : Flags) : (s.withFlags f).frameRemaining = s.frameRemaining := rfl
@[simp] theorem withFlags_repaintRequests (s : State) (f : Flags) : (s.withFlags f).repaintRequests = s.repaintRequests := rfl
@[simp] theorem withFlags_keyPending (s : State) (f : Flags) : (s.withFlags f).keyPending = s.keyPending := rfl
@[simp] theorem withFlags_cancelRequested (s : State) (f : Flags) : (s.withFlags f).cancelRequested = s.cancelRequested := rfl
@[simp] theorem withFlags_batch (s : State) (f : Flags) : (s.withFlags f).batch = s.batch := rfl
@[simp] theorem withFlags_run (s : State) (f : Flags) : (s.withFlags f).run = s.run := rfl
@[simp] theorem withFlags_cfg (s : State) (f : Flags) : (s.withFlags f).cfg = s.cfg := rfl

@[simp] theorem withCycleCount_pc (s : State) (n : Nat) : (s.withCycleCount n).pc = s.pc := rfl
@[simp] theorem withCycleCount_a (s : State) (n : Nat) : (s.withCycleCount n).a = s.a := rfl
@[simp] theorem withCycleCount_x (s : State) (n : Nat) : (s.withCycleCount n).x = s.x := rfl
@[simp] theorem withCycleCount_y (s : State) (n : Nat) : (s.withCycleCount n).y = s.y := rfl
@[simp] theorem withCycleCount_sp (s : State) (n : Nat) : (s.withCycleCount n).sp = s.sp := rfl
@[simp] theorem withCycleCount_flags (s : State) (n : Nat) : (s.withCycleCount n).flags = s.flags := rfl
@[simp] theorem withCycleCount_irqPending (s : State) (n : Nat) : (s.withCycleCount n).irqPending = s.irqPending := rfl
@[simp] theorem withCycleCount_nmiPending (s : State) (n : Nat) : (s.withCycleCount n).nmiPending = s.nmiPending := rfl
@[simp] theorem withCycleCount_cycleCount (s : State) (n : Nat) : (s.withCycleCount n).cycleCount = n := rfl
@[simp] theorem withCycleCount_ram (s : State) (n : Nat) : (s.withCycleCount n).ram = s.ram := rfl
@[simp] theorem withCycleCount_osRom (s : State) (n : Nat) : (s.withCycleCount n).osRom = s.osRom := rfl
@[simp] theorem withCycleCount_banks (s : State) (n : Nat) : (s.withCycleCount n).banks = s.banks := rfl
@[simp] theorem withCycleCount_selectedBank (s : State) (n : Nat) : (s.withCycleCount n).selectedBank = s.selectedBank := rfl
@[simp] theorem withCycleCount_systemVia (s : State) (n : Nat) : (s.withCycleCount n).systemVia = s.systemVia := rfl
@[simp] theorem withCycleCount_userVia (s : State) (n : Nat) : (s.withCycleCount n).userVia = s.userVia := rfl
@[simp] theorem withCycleCount_timers (s : State) (n : Nat) : (s.withCycleCount n).timers = s.timers := rfl
@[simp] theorem withCycleCount_remainder (s : State) (n : Nat) : (s.withCycleCount n).remainder = s.remainder := rfl
@[simp] theorem withCycleCount_frameRemaining (s : State) (n : Nat) : (s.withCycleCount n).frameRemaining = s.frameRemaining := rfl
@[simp] theorem withCycleCount_repaintRequests (s : State) (n : Nat) : (s.withCycleCount n).repaintRequests = s.repaintRequests := rfl
@[simp] theorem withCycleCount_keyPending (s : State) (n : Nat) : (s.withCycleCount n).keyPending = s.keyPending := rfl
@[simp] theorem withCycleCount_cancelRequested (s : State) (n : Nat) : (s.withCycleCount n).cancelRequested = s.cancelRequested := rfl
@[simp] theorem withCycleCount_batch (s : State) (n : Nat) : (s.withCycleCount n).batch = s.batch := rfl
@[simp] theorem withCycleCount_run (s : State) (n : Nat) : (s.withCycleCount n).run = s.run := rfl
@[simp] theorem withCycleCount_cfg (s : State) (n : Nat) : (s.withCycleCount n).cfg = s.cfg := rfl

@[simp] theorem withRam_pc (s : State) (m : Memory) : (s.withRam m).pc = s.pc := rfl
@[simp] theorem withRam_a (s : State) (m : Memory) : (s.withRam m).a = s.a := rfl
@[simp] theorem withRam_x (s : State) (m : Memory) : (s.withRam m).x = s.x := rfl
@[simp] theorem withRam_y (s : State) (m : Memory) : (s.withRam m).y = s.y := rfl
@[simp] theorem withRam_sp (s : State) (m : Memory) : (s.withRam m).sp = s.sp := rfl
@[simp] theorem withRam_flags (s : State) (m : Memory) : (s.withRam m).flags = s.flags := rfl
@[simp] theorem withRam_irqPending (s : State) (m : Memory) : (s.withRam m).irqPending = s.irqPending := rfl
@[simp] theorem withRam_nmiPending (s : State) (m : Memory) : (s.withRam m).nmiPending = s.nmiPending := rfl
@[simp] theorem withRam_cycleCount (s : State) (m : Memory) : (s.withRam m).cycleCount = s.cycleCount := rfl
@[simp] theorem withRam_ram (s : State) (m : Memory) : (s.withRam m).ram = m := rfl
@[simp] theorem withRam_osRom (s : State) (m : Memory) : (s.withRam m).osRom = s.osRom := rfl
@[simp] theorem withRam_banks (s : State) (m : Memory) : (s.withRam m).banks = s.banks := rfl
@[simp] theorem withRam_selectedBank (s : State) (m : Memory) : (s.withRam m).selectedBank = s.selectedBank := rfl
@[simp] theorem withRam_systemVia (s : State) (m : Memory) : (s.withRam m).systemVia = s.systemVia := rfl
@[simp] theorem withRam_userVia (s : State) (m : Memory) : (s.withRam m).userVia = s.userVia := rfl
@[simp] theorem withRam_timers (s : State) (m : Memory) : (s.withRam m).timers = s.timers := rfl
@[simp] theorem withRam_remainder (s : State) (m : Memory) : (s.withRam m).remainder = s.remainder := rfl
@[simp] theorem withRam_frameRemaining (s : State) (m : Memory) : (s.withRam m).frameRemaining = s.frameRemaining := rfl
@[simp] theorem withRam_repaintRequests (s : State) (m : Memory) : (s.withRam m).repaintRequests = s.repaintRequests := rfl
@[simp] theorem withRam_keyPending (s : State) (m : Memory) : (s.withRam m).keyPending = s.keyPending := rfl
@[simp] theorem withRam_cancelRequested (s : State) (m : Memory) : (s.withRam m).cancelRequested = s.cancelRequested := rfl
@[simp] theorem withRam_batch (s : State) (m : Memory) : (s.withRam m).batch = s.batch := rfl
@[simp] theorem withRam_run (s : State) (m : Memory) : (s.withRam m).run = s.run := rfl
@[simp] theorem withRam_cfg (s : State) (m : Memory) : (s.withRam m).cfg = s.cfg := rfl

@[simp] theorem withSelectedBank_pc (s : State) (k : Byte) : (s.withSelectedBank k).pc = s.pc := rfl
@[simp] theorem withSelectedBank_a (s : State) (k : Byte) : (s.withSelectedBank k).a = s.a := rfl
@[simp] theorem withSelectedBank_x (s : State) (k : Byte) : (s.withSelectedBank k).x = s.x := rfl
@[simp] theorem withSelectedBank_y (s : State) (k : Byte) : (s.withSelectedBank k).y = s.y := rfl
@[simp] theorem withSelectedBank_sp (s : State) (k : Byte) : (s.withSelectedBank k).sp = s.sp := rfl
@[simp] theorem withSelectedBank_flags (s : State) (k : Byte) : (s.withSelectedBank k).flags = s.flags := rfl
@[simp] theorem withSelectedBank_irqPending (s : State) (k : Byte) : (s.withSelectedBank k).irqPending = s.irqPending := rfl
@[simp] theorem withSelectedBank_nmiPending (s : State) (k : Byte) : (s.withSelectedBank k).nmiPending = s.nmiPending := rfl
@[simp] theorem withSelectedBank_cycleCount (s : State) (k : Byte) : (s.withSelectedBank k).cycleCount = s.cycleCount := rfl
@[simp] theorem withSelectedBank_ram (s : State) (k : Byte) : (s.withSelectedBank k).ram = s.ram := rfl
@[simp] theorem withSelectedBank_osRom (s : State) (k : Byte) : (s.withSelectedBank k).osRom = s.osRom := rfl
@[simp] theorem withSelectedBank_banks (s : State) (k : Byte) : (s.withSelectedBank k).banks = s.banks := rfl
@[simp] theorem withSelectedBank_selectedBank (s : State) (k : Byte) : (s.withSelectedBank k).selectedBank = k := rfl
@[simp] theorem withSelectedBank_systemVia (s : State) (k : Byte) : (s.withSelectedBank k).systemVia = s.systemVia := rfl
@[simp] theorem withSelectedBank_userVia (s : State) (k : Byte) : (s.withSelectedBank k).userVia = s.userVia := rfl
@[simp] theorem withSelectedBank_timers (s : State) (k : Byte) : (s.withSelectedBank k).timers = s.timers := rfl
@[simp] theorem withSelectedBank_remainder (s : State) (k : Byte) : (s.withSelectedBank k).remainder = s.remainder := rfl
@[simp] theorem withSelectedBank_frameRemaining (s : State) (k : Byte) : (s.withSelectedBank k).frameRemaining = s.frameRemaining := rfl
@[simp] theorem withSelectedBank_repaintRequests (s : State) (k : Byte) : (s.withSelectedBank k).repaintRequests = s.repaintRequests := rfl
@[simp] theorem withSelectedBank_keyPending (s : State) (k : Byte) : (s.withSelectedBank k).keyPending = s.keyPending := rfl
@[simp] theorem withSelectedBank_cancelRequested (s : State) (k : Byte) : (s.withSelectedBank k).cancelRequested = s.cancelRequested := rfl
@[simp] theorem withSelectedBank_batch (s : State) (k : Byte) : (s.withSelectedBank k).batch = s.batch := rfl
@[simp] theorem withSelectedBank_run (s : State) (k : Byte) : (s.withSelectedBank k).run = s.run := rfl
@[simp] theorem withSelectedBank_cfg (s : State) (k : Byte) : (s.withSelectedBank k).cfg = s.cfg := rfl

@[simp] theorem withReg_pc (s : State) (r : Reg) (v : Byte) : (s.withReg r v).pc = s.pc := by cases r <;> rfl
@[simp] theorem withReg_flags (s : State) (r : Reg) (v : Byte) : (s.withReg r v).flags = s.flags := by cases r <;> rfl
@[simp] theorem withReg_irqPending (s : State) (r : Reg) (v : Byte) : (s.withReg r v).irqPending = s.irqPending := by cases r <;> rfl
@[simp] theorem withReg_nmiPending (s : State) (r : Reg) (v : Byte) : (s.withReg r v).nmiPending = s.nmiPending := by cases r <;> rfl
@[simp] theorem withReg_cycleCount (s : State) (r : Reg) (v : Byte) : (s.withReg r v).cycleCount = s.cycleCount := by cases r <;> rfl
@[simp] theorem withReg_ram (s : State) (r : Reg) (v : Byte) : (s.withReg r v).ram = s.ram := by cases r <;> rfl
@[simp] theorem withReg_osRom (s : State) (r : Reg) (v : Byte) : (s.withReg r v).osRom = s.osRom := by cases r <;> rfl
@[simp] theorem withReg_banks (s : State) (r : Reg) (v : Byte) : (s.withReg r v).banks = s.banks := by cases r <;> rfl
@[simp] theorem withReg_selectedBank (s : State) (r : Reg) (v : Byte) : (s.withReg r v).selectedBank = s.selectedBank := by cases r <;> rfl
@[simp] theorem withReg_systemVia (s : State) (r : Reg) (v : Byte) : (s.withReg r v).systemVia = s.systemVia := by cases r <;> rfl
@[simp] theorem withReg_userVia (s : State) (r : Reg) (v : Byte) : (s.withReg r v).userVia = s.userVia := by cases r <;> rfl
@[simp] theorem withReg_timers (s : State) (r : Reg) (v : Byte) : (s.withReg r v).timers = s.timers := by cases r <;> rfl
@[simp] theorem withReg_remainder (s : State) (r : Reg) (v : Byte) : (s.withReg r v).remainder = s.remainder := by cases r <;> rfl
@[simp] theorem withReg_frameRemaining (s : State) (r : Reg) (v : Byte) : (s.withReg r v).frameRemaining = s.frameRemaining := by cases r <;> rfl
@[simp] theorem withReg_repaintRequests (s : State) (r : Reg) (v : Byte) : (s.withReg r v).repaintRequests = s.repaintRequests := by cases r <;> rfl
@[simp] theorem withReg_keyPending (s : State) (r : Reg) (v : Byte) : (s.withReg r v).keyPending = s.keyPending := by cases r <;> rfl
@[simp] theorem withReg_cancelRequested (s : State) (r : Reg) (v : Byte) : (s.withReg r v).cancelRequested = s.cancelRequested := by cases r <;> rfl
@[simp] theorem withReg_batch (s : State) (r : Reg) (v : Byte) : (s.withReg r v).batch = s.batch := by cases r <;> rfl
@[simp] theorem withReg_run (s : State) (r : Reg) (v : Byte) : (s.withReg r v).run = s.run := by cases r <;> rfl
@[simp] theorem withReg_cfg (s : State) (r : Reg) (v : Byte) : (s.withReg r v).cfg = s.cfg := by cases r <;> rfl

@[simp] theorem withVia_pc (s : State) (id : ViaId) (v : Via) : (s.withVia id v).pc = s.pc := by cases id <;> rfl
@[simp] theorem withVia_a (s : State) (id : ViaId) (v : Via) : (s.withVia id v).a = s.a := by cases id <;> rfl
@[simp] theorem withVia_x (s : State) (id : ViaId) (v : Via) : (s.withVia id v).x = s.x := by cases id <;> rfl
@[simp] theorem withVia_y (s : State) (id : ViaId) (v : Via) : (s.withVia id v).y = s.y := by cases id <;> rfl
@[simp] theorem withVia_sp (s : State) (id : ViaId) (v : Via) : (s.withVia id v).sp = s.sp := by cases id <;> rfl
@[simp] theorem withVia_flags (s : State) (id : ViaId) (v : Via) : (s.withVia id v).flags = s.flags := by cases id <;> rfl
@[simp] theorem withVia_irqPending (s : State) (id : ViaId) (v : Via) : (s.withVia id v).irqPending = s.irqPending := by cases id <;> rfl
@[simp] theorem withVia_nmiPending (s : State) (id : ViaId) (v : Via) : (s.withVia id v).nmiPending = s.nmiPending := by cases id <;> rfl
@[simp] theorem withVia_cycleCount (s : State) (id : ViaId) (v : Via) : (s.withVia id v).cycleCount = s.cycleCount := by cases id <;> rfl
@[simp] theorem withVia_ram (s : State) (id : ViaId) (v : Via) : (s.withVia id v).ram = s.ram := by cases id <;> rfl
@[simp] theorem withVia_osRom (s : State) (id : ViaId) (v : Via) : (s.withVia id v).osRom = s.osRom := by cases id <;> rfl
@[simp] theorem withVia_banks (s : State) (id : ViaId) (v : Via) : (s.withVia id v).banks = s.banks := by cases id <;> rfl
@[simp] theorem withVia_selectedBank (s : State) (id : ViaId) (v : Via) : (s.withVia id v).selectedBank = s.selectedBank := by cases id <;> rfl
@[simp] theorem withVia_timers (s : State) (id : ViaId) (v : Via) : (s.withVia id v).timers = s.timers := by cases id <;> rfl
@[simp] theorem withVia_remainder (s : State) (id : ViaId) (v : Via) : (s.withVia id v).remainder = s.remainder := by cases id <;> rfl
@[simp] theorem withVia_frameRemaining (s : State) (id : ViaId) (v : Via) : (s.withVia id v).frameRemaining = s.frameRemaining := by cases id <;> rfl
@[simp] theorem withVia_repaintRequests (s : State) (id : ViaId) (v : Via) : (s.withVia id v).repaintRequests = s.repaintRequests := by cases id <;> rfl
@[simp] theorem withVia_keyPending (s : State) (id : ViaId) (v : Via) : (s.withVia id v).keyPending = s.keyPending := by cases id <;> rfl
@[simp] theorem withVia_cancelRequested (s : State) (id : ViaId) (v : Via) : (s.withVia id v).cancelRequested = s.cancelRequested := by cases id <;> rfl
@[simp] theorem withVia_batch (s : State) (id : ViaId) (v : Via) : (s.withVia id v).batch = s.batch := by cases id <;> rfl
@[simp] theorem withVia_run (s : State) (id : ViaId) (v : Via) : (s.withVia id v).run = s.run := by cases id <;> rfl
@[simp] theorem withVia_cfg (s : State) (id : ViaId) (v : Via) : (s.withVia id v).cfg = s.cfg := by cases id <;> rfl

@[simp] theorem withReg_a_eq (s : State) (v : Byte) : s.withReg .a v = { s with a := v } := rfl
@[simp] theorem reg_a (s : State) : s.reg .a = s.a := rfl
@[simp] theorem withReg_x_eq (s : State) (v : Byte) : s.withReg .x v = { s with x := v } := rfl
@[simp] theorem reg_x (s : State) : s.reg .x = s.x := rfl
@[simp] theorem withReg_y_eq (s : State) (v : Byte) : s.withReg .y v = { s with y := v } := rfl
@[simp] theorem reg_y (s : State) : s.reg .y = s.y := rfl
@[simp] theorem withReg_sp_eq (s : State) (v : Byte) : s.withReg .sp v = { s with sp := v } := rfl
@[simp] theorem reg_sp (s : State) : s.reg .sp = s.sp := rfl

theorem reg_withReg_same (s : State) (r : Reg) (v : Byte) : (s.withReg r v).reg r = v := by cases r <;> rfl

theorem reg_withReg_other (s : State) (r q : Reg) (v : Byte) (h : q ≠ r) : (s.withReg r v).reg q = s.reg q := by
  cases r <;> cases q <;> first | rfl | exact absurd rfl h

theorem via_withVia_same (s : State) (id : ViaId) (v : Via) : (s.withVia id v).via id = v := by cases id <;> rfl

theorem via_withVia_other (s : State) (id j : ViaId) (v : Via) (h : j ≠ id) : (s.withVia id v).via j = s.via j := by
  cases id <;> cases j <;> first | rfl | exact absurd rfl h

end Sys2Proof.Machine.State
end

