-- ==== Sys2Proof/Laws/Ops.lean ====
section
/-! SUPPORT. What each shared operation can do, said once: how `Exec` sequences, the decoder's regions, the stack, the
interrupt entry and return, and how an instruction ends. -/

namespace Sys2Proof.Machine

/-! ## Sequencing -/

/-- Sequencing: the second computation starts in the state the first one leaves; a fault ends both. -/
@[simp] theorem Exec.run_bind {α β : Type} (x : Exec α) (f : α → Exec β) (s : State) :
    (x >>= f).run s = match x.run s with
      | .ok a s' => (f a).run s'
      | .error k s' => .error k s' := by
  change EStateM.bind x f s = _
  unfold EStateM.bind EStateM.run
  cases x s <;> rfl

@[simp] theorem Exec.run_pure {α : Type} (a : α) (s : State) : (pure a : Exec α).run s = .ok a s := rfl

theorem Exec.run_ite {α : Type} (p : Prop) [Decidable p] (x y : Exec α) (s : State) :
    (if p then x else y).run s = if p then x.run s else y.run s := by split <;> rfl

/-! ## Registers and flags -/

@[simp] theorem getReg_apply (r : Reg) (s : State) : (getReg r).run s = .ok (s.reg r) s := rfl
@[simp] theorem setReg_apply (r : Reg) (v : Byte) (s : State) : (setReg r v).run s = .ok () (s.withReg r v) := rfl
@[simp] theorem getPc_apply (s : State) : getPc.run s = .ok s.pc s := rfl
@[simp] theorem setPc_apply (p : Addr) (s : State) : (setPc p).run s = .ok () (s.withPc p) := rfl
@[simp] theorem getFlags_apply (s : State) : getFlags.run s = .ok s.flags s := rfl
@[simp] theorem updateFlags_apply (f : Flags → Flags) (s : State) :
    (updateFlags f).run s = .ok () (s.withFlags (f s.flags)) := rfl
@[simp] theorem addCycles_apply (n : Nat) (s : State) : (addCycles n).run s = .ok () (s.withCycleCount (s.cycleCount + n)) := rfl
@[simp] theorem raise_apply {α : Type} (k : FaultKind) (s : State) : (raise k : Exec α).run s = .error k s := rfl

/-! ## Addr16 -/

theorem addr16_ok (v : Nat) (s : State) (h : v ≤ 0xFFFF) : (addr16 v).run s = .ok (BitVec.ofNat 16 v) s := by
  have h1 : (0 : Int) ≤ v ∧ (v : Int).toNat ≤ 0xFFFF := by omega
  simp only [EStateM.run, addr16]
  rw [if_pos h1, Int.toNat_natCast]

theorem addr16_error (v : Int) (s : State) (h : v < 0 ∨ 0xFFFF < v) : (addr16 v).run s = .error (.outOfRange v none) s := by
  have h1 : ¬(0 ≤ v ∧ v.toNat ≤ 0xFFFF) := by omega
  simp only [EStateM.run, addr16, h1, if_false]

/-- What Addr16 can do: it never changes the state. -/
theorem addr16_cases (v : Int) (s : State) :
    (0 ≤ v ∧ v ≤ 0xFFFF ∧ (addr16 v).run s = .ok (BitVec.ofNat 16 v.toNat) s)
      ∨ ((v < 0 ∨ 0xFFFF < v) ∧ (addr16 v).run s = .error (.outOfRange v none) s) := by
  by_cases h : 0 ≤ v ∧ v.toNat ≤ 0xFFFF
  · exact .inl ⟨h.1, by omega, by simp only [EStateM.run, addr16, h, and_self, if_true]⟩
  · exact .inr ⟨by omega, addr16_error v s (by omega)⟩

theorem ofNat_toNat_add (p : Addr) (n : Nat) : BitVec.ofNat 16 (p.toNat + n) = p + BitVec.ofNat 16 n := by
  apply BitVec.eq_of_toNat_eq
  simp

/-! ## The decoder -/

/-- The ignored windows as ranges (20_memory.md R65). -/
theorem isIgnored_iff (n : Nat) :
    isIgnored n = true ↔ (0xFE08 ≤ n ∧ n ≤ 0xFE09) ∨ n = 0xFE10 ∨ (0xFE20 ≤ n ∧ n ≤ 0xFE21) ∨ (0xFEC0 ≤ n ∧ n ≤ 0xFEC2)
      ∨ n = 0xFEE0 ∨ n = 0xFEE5 ∨ (0xFC00 ≤ n ∧ n ≤ 0xFCFF) ∨ (0xFD00 ≤ n ∧ n ≤ 0xFDFF) := by
  simp only [isIgnored, ignoredWindows, Config.extraIgnoredWindows, List.append_nil, List.any_cons, List.any_nil,
    Bool.or_eq_true, Bool.and_eq_true, decide_eq_true_eq, Bool.false_eq_true, or_false]
  omega

theorem region_ram (a : Addr) (h : a.toNat ≤ 0x7FFF) : region a = .ram := by
  simp only [region, h, if_true]

theorem region_ram_iff (a : Addr) : region a = .ram ↔ a.toNat ≤ 0x7FFF := by
  constructor
  · intro h
    simp only [region] at h
    split at h
    · assumption
    · repeat' split at h
      all_goals exact absurd h (by simp)
  · exact region_ram a

/-- A region of storage behind an address is one of these, by range. -/
theorem region_cases (a : Addr) :
    (a.toNat ≤ 0x7FFF ∧ region a = .ram)
      ∨ (0x7FFF < a.toNat ∧ isIgnored a.toNat = true ∧ region a = .ignored)
      ∨ (isIgnored a.toNat = false ∧ 0xFE40 ≤ a.toNat ∧ a.toNat ≤ 0xFE4F ∧ region a = .via .system (a.toNat - 0xFE40))
      ∨ (isIgnored a.toNat = false ∧ 0xFE60 ≤ a.toNat ∧ a.toNat ≤ 0xFE6F ∧ region a = .via .user (a.toNat - 0xFE60))
      ∨ (a.toNat = 0xFE30 ∧ region a = .bankSelect)
      ∨ (isIgnored a.toNat = false ∧ 0xC000 ≤ a.toNat ∧ a.toNat ≠ 0xFE30
          ∧ ¬(0xFE40 ≤ a.toNat ∧ a.toNat ≤ 0xFE4F) ∧ ¬(0xFE60 ≤ a.toNat ∧ a.toNat ≤ 0xFE6F)
          ∧ region a = .osRom (a.toNat - 0xC000))
      ∨ (0x8000 ≤ a.toNat ∧ a.toNat ≤ 0xBFFF ∧ region a = .pagedRom (a.toNat - 0x8000)) := by
  by_cases h1 : a.toNat ≤ 0x7FFF
  · exact .inl ⟨h1, region_ram a h1⟩
  right
  by_cases h2 : isIgnored a.toNat = true
  · exact .inl ⟨by omega, h2, by simp only [region, h1, h2, if_false, if_true]⟩
  right
  have h2' : isIgnored a.toNat = false := by simpa using h2
  by_cases h3 : 0xFE40 ≤ a.toNat ∧ a.toNat ≤ 0xFE4F
  · exact .inl ⟨h2', h3.1, h3.2, by simp only [region, h1, h2', Bool.false_eq_true, h3, and_self, if_false, if_true]⟩
  right
  by_cases h4 : 0xFE60 ≤ a.toNat ∧ a.toNat ≤ 0xFE6F
  · exact .inl ⟨h2', h4.1, h4.2, by simp only [region, h1, h2', Bool.false_eq_true, h3, h4, and_self, if_false, if_true]⟩
  right
  by_cases h5 : a.toNat = 0xFE30
  · exact .inl ⟨h5, by simp only [region, h1, h2, h3, h4, if_false]; simp [h5]⟩
  right
  by_cases h6 : 0xC000 ≤ a.toNat
  · exact .inl ⟨h2', h6, h5, h3, h4, by simp only [region, h1, h2', Bool.false_eq_true, h3, h4, h5, h6, if_false, if_true]⟩
  · exact .inr ⟨by omega, by omega, by simp only [region, h1, h2', Bool.false_eq_true, h3, h4, h5, h6, if_false]⟩

/-- Only an ignored window is routed as ignored. -/
theorem isIgnored_of_region {a : Addr} (h : region a = .ignored) : isIgnored a.toNat = true := by
  rcases region_cases a with ⟨_, e⟩ | ⟨_, hi, _⟩ | ⟨_, _, _, e⟩ | ⟨_, _, _, e⟩ | ⟨_, e⟩ | ⟨_, _, _, _, _, e⟩ | ⟨_, _, e⟩ <;>
    first | exact hi | (rw [h] at e; cases e)

/-- A read raises nothing outside an ignored window under strict mode. -/
theorem memRead_ok (a : Addr) (s : State) (h : (s.cfg.strictIgnored && region a == .ignored) = false) :
    (memRead a).run s = .ok (s.peek a) s := by
  simp only [EStateM.run, memRead, h, Bool.false_eq_true, if_false]

/-- What a read can do: it never changes the state. -/
theorem memRead_cases (a : Addr) (s : State) :
    (memRead a).run s = .ok (s.peek a) s
      ∨ (s.cfg.strictIgnored = true ∧ region a = .ignored ∧ (memRead a).run s = .error (.ignoredHardwareAccess a .read) s) := by
  by_cases h : (s.cfg.strictIgnored && region a == .ignored) = true
  · refine .inr ⟨?_, ?_, ?_⟩
    · simp at h; exact h.1
    · simp at h; exact h.2
    · simp only [EStateM.run, memRead, h, if_true]
  · exact .inl (memRead_ok a s (by simpa using h))

theorem memRead_ram (a : Addr) (s : State) (h : a.toNat ≤ 0x7FFF) : (memRead a).run s = .ok (s.ram.read a.toNat) s := by
  rw [memRead_ok a s (by simp [region_ram a h])]
  simp only [State.peek, region_ram a h]

theorem memWrite_ram (a : Addr) (v : Byte) (s : State) (h : a.toNat ≤ 0x7FFF) :
    (memWrite a v).run s = .ok () (s.withRam (s.ram.write a.toNat v)) := by
  simp only [EStateM.run, memWrite, region_ram a h]

/-- What a write can do when it raises nothing: one of four effects, by region. -/
theorem memWrite_cases (a : Addr) (v : Byte) (s s' : State) (h : (memWrite a v).run s = .ok () s') :
    (region a = .ram ∧ s' = s.withRam (s.ram.write a.toNat v))
      ∨ (region a = .ignored ∧ s.cfg.strictIgnored = false ∧ s' = s)
      ∨ (∃ id o, region a = .via id o ∧ s' = s.withVia id ((s.via id).set o v))
      ∨ (region a = .bankSelect ∧ s' = s.withSelectedBank v) := by
  simp only [EStateM.run, memWrite] at h
  split at h
  · next hr => cases h; exact .inl ⟨hr, rfl⟩
  · next hr =>
    split at h
    · cases h
    · next hs => cases h; exact .inr (.inl ⟨hr, by simpa using hs, rfl⟩)
  · next id o hr => cases h; exact .inr (.inr (.inl ⟨id, o, hr, rfl⟩))
  · next hr => cases h; exact .inr (.inr (.inr ⟨hr, rfl⟩))
  · cases h
  · cases h

/-- A write that raises leaves the state as it was. -/
theorem memWrite_error (a : Addr) (v : Byte) (s s' : State) (k : FaultKind) (h : (memWrite a v).run s = .error k s') :
    s' = s ∧ ((region a = .ignored ∧ s.cfg.strictIgnored = true ∧ k = .ignoredHardwareAccess a (.write v))
      ∨ (∃ o, region a = .osRom o ∧ k = .readOnlyViolation .osRom a v)
      ∨ (∃ o, region a = .pagedRom o ∧ k = .readOnlyViolation (.pagedRom s.selectedBank) a v)) := by
  simp only [EStateM.run, memWrite] at h
  split at h
  · cases h
  · next hr =>
    split at h
    · next hs => cases h; exact ⟨rfl, .inl ⟨hr, hs, rfl⟩⟩
    · cases h
  · cases h
  · cases h
  · next o hr => cases h; exact ⟨rfl, .inr (.inl ⟨o, hr, rfl⟩)⟩
  · next o hr => cases h; exact ⟨rfl, .inr (.inr ⟨o, hr, rfl⟩)⟩

/-! ## Zero page and the stack are RAM -/

theorem zext16_toNat (b : Byte) : (zext16 b).toNat = b.toNat := by
  simp only [zext16, BitVec.toNat_setWidth]
  omega

theorem zext16_ram (b : Byte) : (zext16 b).toNat ≤ 0x7FFF := by
  rw [zext16_toNat]
  omega

theorem stackAddr_toNat (sp : Byte) : (stackAddr sp).toNat = 0x0100 + sp.toNat := by
  simp only [stackAddr, BitVec.toNat_add, zext16_toNat]
  have := sp.isLt
  simp
  omega

theorem stackAddr_ram (sp : Byte) : (stackAddr sp).toNat ≤ 0x7FFF := by
  rw [stackAddr_toNat]
  omega

/-- Push never raises: page 1 is RAM (20_memory.md R76). -/
theorem push_apply (v : Byte) (s : State) :
    (push v).run s = .ok () { s with ram := s.ram.write (0x0100 + s.sp.toNat) v, sp := s.sp - 1 } := by
  simp only [push, Exec.run_bind, getReg_apply, State.reg_sp, memWrite_ram _ v s (stackAddr_ram s.sp), setReg_apply,
    stackAddr_toNat]
  rfl

/-- Pull never raises (20_memory.md R77). -/
theorem pull_apply (s : State) :
    pull.run s = .ok (s.ram.read (0x0100 + (s.sp + 1).toNat)) { s with sp := s.sp + 1 } := by
  simp only [pull, Exec.run_bind, getReg_apply, State.reg_sp, setReg_apply, memRead_ram _ _ (stackAddr_ram _),
    stackAddr_toNat, State.withReg_ram]
  rfl

theorem push16_apply (v : Addr) (s : State) :
    (push16 v).run s = .ok ()
      { s with
        ram := (s.ram.write (0x0100 + s.sp.toNat) (hiByte v)).write (0x0100 + (s.sp - 1).toNat) (loByte v)
        sp := s.sp - 1 - 1 } := by
  simp only [push16, Exec.run_bind, push_apply]

theorem pull16_apply (s : State) :
    pull16.run s = .ok (addrOfBytes (s.ram.read (0x0100 + (s.sp + 1).toNat)) (s.ram.read (0x0100 + (s.sp + 1 + 1).toNat)))
      { s with sp := s.sp + 1 + 1 } := by
  simp only [pull16, Exec.run_bind, pull_apply, Exec.run_pure]

theorem addrOfBytes_lo_hi (v : Addr) : addrOfBytes (loByte v) (hiByte v) = v := by
  apply BitVec.eq_of_getLsbD_eq
  intro i hi
  simp only [addrOfBytes, loByte, hiByte, BitVec.getLsbD_append, BitVec.getLsbD_extractLsb']
  split
  · next h => simp [h]
  · next h =>
    have h1 : i - 8 < 8 := by omega
    have h2 : 8 + (i - 8) = i := by omega
    simp [h1, h2]

theorem loByte_addrOfBytes (lo hi : Byte) : loByte (addrOfBytes lo hi) = lo := by
  apply BitVec.eq_of_getLsbD_eq
  intro i h
  rw [loByte, BitVec.getLsbD_extractLsb', addrOfBytes, BitVec.getLsbD_append]
  simp [h]

theorem hiByte_addrOfBytes (lo hi : Byte) : hiByte (addrOfBytes lo hi) = hi := by
  apply BitVec.eq_of_getLsbD_eq
  intro i h
  rw [hiByte, BitVec.getLsbD_extractLsb', addrOfBytes, BitVec.getLsbD_append]
  simp [h]

/-! ## The vectors are OS ROM -/

theorem memRead_osRom (a : Addr) (o : Nat) (s : State) (h : region a = .osRom o) :
    (memRead a).run s = .ok (s.osRom.read o) s := by
  rw [memRead_ok a s (by simp [h])]
  simp only [State.peek, h]

/-- The IRQ/BRK vector read never raises. -/
theorem read16_break (s : State) :
    (read16 Config.breakLocation).run s = .ok (addrOfBytes (s.osRom.read 0x3FFE) (s.osRom.read 0x3FFF)) s := by
  have h1 : (addr16 ((Config.breakLocation.toNat : Int) + 1)).run s = .ok 0xFFFF s := addr16_ok 0xFFFF s (by decide)
  simp only [read16, Exec.run_bind, memRead_osRom Config.breakLocation 0x3FFE s (by decide), h1,
    memRead_osRom 0xFFFF 0x3FFF s (by decide), Exec.run_pure]

/-- The NMI vector read never raises. -/
theorem read16_nmi (s : State) :
    (read16 Config.nmiVector).run s = .ok (addrOfBytes (s.osRom.read 0x3FFA) (s.osRom.read 0x3FFB)) s := by
  have h1 : (addr16 ((Config.nmiVector.toNat : Int) + 1)).run s = .ok 0xFFFB s := addr16_ok 0xFFFB s (by decide)
  simp only [read16, Exec.run_bind, memRead_osRom Config.nmiVector 0x3FFA s (by decide), h1,
    memRead_osRom 0xFFFB 0x3FFB s (by decide), Exec.run_pure]

/-- RAM after an entry's three pushes. -/
def entryRam (ret : Addr) (b : Bool) (s : State) : Memory :=
  ((s.ram.write (0x0100 + s.sp.toNat) (hiByte ret)).write (0x0100 + (s.sp - 1).toNat) (loByte ret)).write
    (0x0100 + (s.sp - 1 - 1).toNat) (statusByte b s.flags)

/-- The state an entry leaves, the target of its vector given. -/
def entryState (ret : Addr) (b : Bool) (target : Addr) (s : State) : State :=
  { s with ram := entryRam ret b s, sp := s.sp - 1 - 1 - 1, flags := { s.flags with i := true }, pc := target }

/-- The shared entry, once its vector is known to read as `target`. -/
theorem enterInterrupt_apply (ret : Addr) (b : Bool) (vector target : Addr) (s : State)
    (h : ∀ s' : State, s'.osRom = s.osRom → (read16 vector).run s' = .ok target s') :
    (enterInterrupt ret b vector).run s = .ok () (entryState ret b target s) := by
  simp only [enterInterrupt, Exec.run_bind, push16_apply, getFlags_apply, push_apply, updateFlags_apply, setPc_apply]
  split
  · next t s' heq =>
    have h1 := heq.symm.trans (h _ (by rfl))
    cases h1
    rfl
  · next k s' heq =>
    have h1 := heq.symm.trans (h _ (by rfl))
    cases h1

theorem enterInterrupt_break (ret : Addr) (b : Bool) (s : State) :
    (enterInterrupt ret b Config.breakLocation).run s
      = .ok () (entryState ret b (addrOfBytes (s.osRom.read 0x3FFE) (s.osRom.read 0x3FFF)) s) :=
  enterInterrupt_apply ret b _ _ s fun s' h => by rw [read16_break, h]

theorem enterInterrupt_nmi (ret : Addr) (b : Bool) (s : State) :
    (enterInterrupt ret b Config.nmiVector).run s
      = .ok () (entryState ret b (addrOfBytes (s.osRom.read 0x3FFA) (s.osRom.read 0x3FFB)) s) :=
  enterInterrupt_apply ret b _ _ s fun s' h => by rw [read16_nmi, h]

/-- The shared return never raises. -/
theorem returnFromInterrupt_apply (s : State) :
    returnFromInterrupt.run s = .ok ()
      { s with
        flags := pulledFlags (s.ram.read (0x0100 + (s.sp + 1).toNat)) s.flags
        sp := s.sp + 1 + 1 + 1
        pc := addrOfBytes (s.ram.read (0x0100 + (s.sp + 1 + 1).toNat)) (s.ram.read (0x0100 + (s.sp + 1 + 1 + 1).toNat)) } := by
  simp only [returnFromInterrupt, Exec.run_bind, pull_apply, updateFlags_apply, pull16_apply, setPc_apply,
    State.withFlags_sp, State.withFlags_ram]
  rfl

/-! ## Effective addresses and operands read and never write -/

/-- A computation that leaves the state as it was, whether it answers or raises. -/
def Pure {α : Type} (x : Exec α) : Prop :=
  ∀ s, (∃ a, x.run s = .ok a s) ∨ (∃ k, x.run s = .error k s)

theorem Pure.bind {α β : Type} {x : Exec α} {f : α → Exec β} (hx : Pure x) (hf : ∀ a, Pure (f a)) : Pure (x >>= f) := by
  intro s
  rcases hx s with ⟨a, h⟩ | ⟨k, h⟩
  · simp only [Exec.run_bind, h]; exact hf a s
  · simp only [Exec.run_bind, h]; exact .inr ⟨k, rfl⟩

theorem Pure.pure {α : Type} (a : α) : Pure (pure a : Exec α) := fun _ => .inl ⟨a, rfl⟩
theorem Pure.raise {α : Type} (k : FaultKind) : Pure (raise k : Exec α) := fun _ => .inr ⟨k, rfl⟩
theorem Pure.getReg (r : Reg) : Pure (getReg r) := fun s => .inl ⟨s.reg r, rfl⟩
theorem Pure.getPc : Pure getPc := fun s => .inl ⟨s.pc, rfl⟩
theorem Pure.getFlags : Pure getFlags := fun s => .inl ⟨s.flags, rfl⟩

theorem Pure.addr16 (v : Int) : Pure (addr16 v) := by
  intro s
  rcases addr16_cases v s with ⟨_, _, h⟩ | ⟨_, h⟩
  · exact .inl ⟨_, h⟩
  · exact .inr ⟨_, h⟩

theorem Pure.memRead (a : Addr) : Pure (memRead a) := by
  intro s
  rcases memRead_cases a s with h | ⟨_, _, h⟩
  · exact .inl ⟨_, h⟩
  · exact .inr ⟨_, h⟩

theorem Pure.zeroPagePointer (z : Byte) : Pure (zeroPagePointer z) :=
  .bind (.memRead _) fun _ => .bind (.memRead _) fun _ => .pure _

/-- An effective address is computed without changing the state. -/
theorem Pure.ea (m : AddrMode) : Pure (ea m) := by
  cases m with
  | implied => exact .raise _
  | immediate b => exact .bind .getPc fun _ => .addr16 _
  | zeroPage zp => exact .pure _
  | zeroPageX zp => exact .bind (.getReg _) fun _ => .pure _
  | zeroPageY zp => exact .bind (.getReg _) fun _ => .pure _
  | absolute a => exact .pure _
  | absoluteX a => exact .bind (.getReg _) fun _ => .addr16 _
  | absoluteY a => exact .bind (.getReg _) fun _ => .addr16 _
  | indirect p => exact .bind (.memRead _) fun _ => .bind (.memRead _) fun _ => .pure _
  | indexedIndirect zp => exact .bind (.getReg _) fun _ => .zeroPagePointer _
  | indirectIndexed zp => exact .bind (.zeroPagePointer _) fun _ => .bind (.getReg _) fun _ => .addr16 _

/-- An operand is read without changing the state. -/
theorem Pure.operand (m : AddrMode) : Pure (operand m) := by
  cases m with
  | implied => exact .raise _
  | immediate b => exact .pure _
  | zeroPage zp => exact .bind (.ea _) fun _ => .memRead _
  | zeroPageX zp => exact .bind (.ea _) fun _ => .memRead _
  | zeroPageY zp => exact .bind (.ea _) fun _ => .memRead _
  | absolute a => exact .bind (.ea _) fun _ => .memRead _
  | absoluteX a => exact .bind (.ea _) fun _ => .memRead _
  | absoluteY a => exact .bind (.ea _) fun _ => .memRead _
  | indirect p => exact .bind (.ea _) fun _ => .memRead _
  | indexedIndirect zp => exact .bind (.ea _) fun _ => .memRead _
  | indirectIndexed zp => exact .bind (.ea _) fun _ => .memRead _

/-! ## How an instruction ends -/

/-- The common ending inside the address space (40_load_store_transfer.md R130). -/
theorem advance_ok (len base : Nat) (s : State) (h : s.pc.toNat + len ≤ 0xFFFF) :
    (advance len base).run s
      = .ok () { s with pc := s.pc + BitVec.ofNat 16 len, cycleCount := s.cycleCount + base } := by
  have h1 := addr16_ok (s.pc.toNat + len) s h
  rw [Nat.cast_add] at h1
  simp only [advance, Exec.run_bind, getPc_apply, h1, setPc_apply, addCycles_apply, ofNat_toNat_add]
  rfl

/-- The common ending past the address space: OutOfRange, with PC and cycleCount not written (60_exceptions.md R248). -/
theorem advance_error (len base : Nat) (s : State) (h : 0xFFFF < s.pc.toNat + len) :
    (advance len base).run s = .error (.outOfRange (s.pc.toNat + len) none) s := by
  simp only [advance, Exec.run_bind, getPc_apply, addr16_error (s.pc.toNat + len : Int) s (by omega)]

theorem length_pos (i : Instr) : 1 ≤ i.length ∧ i.length ≤ 3 := by
  simp only [Instr.length]
  cases i.mode <;> simp [AddrMode.length]

theorem pc_add_length_ne (p : Addr) (i : Instr) : p + BitVec.ofNat 16 i.length ≠ p := by
  intro h
  have h2 := congrArg BitVec.toNat h
  have h3 := length_pos i
  have h4 := p.isLt
  simp only [BitVec.toNat_add, BitVec.toNat_ofNat] at h2
  omega

/-- A non-control-flow instruction whose effect raises nothing, inside the address space. -/
theorem straight_ok (i : Instr) (body : Exec Unit) (s s' : State) (hb : body.run s = .ok () s') (hpc : s'.pc = s.pc)
    (hfit : s.pc.toNat + i.length ≤ 0xFFFF) :
    straight i body s
      = .next { s' with pc := s.pc + BitVec.ofNat 16 i.length, cycleCount := s'.cycleCount + i.baseCycles } := by
  have h1 : s'.pc.toNat + i.length ≤ 0xFFFF := by rw [hpc]; exact hfit
  have h2 : (s.pc + BitVec.ofNat 16 i.length == s.pc) = false := by simpa using pc_add_length_ne s.pc i
  simp only [straight, perform, Exec.run_bind, hb, advance_ok _ _ s' h1, isStuck, hpc, h2, Bool.false_and,
    Bool.false_eq_true, if_false]

/-- A non-control-flow instruction whose effect raises nothing, at the top of the address space: the effect stays, and
the PC update raises (60_exceptions.md R248). -/
theorem straight_overflow (i : Instr) (body : Exec Unit) (s s' : State) (hb : body.run s = .ok () s') (hpc : s'.pc = s.pc)
    (hfit : 0xFFFF < s.pc.toNat + i.length) :
    straight i body s = halt s (some i.opcode) (.outOfRange (s.pc.toNat + i.length) none) s' := by
  have h1 : 0xFFFF < s'.pc.toNat + i.length := by rw [hpc]; exact hfit
  simp only [straight, perform, Exec.run_bind, hb, advance_error _ _ s' h1, hpc]

/-- A non-control-flow instruction whose effect raises. -/
theorem straight_error (i : Instr) (body : Exec Unit) (s s' : State) (k : FaultKind) (hb : body.run s = .error k s') :
    straight i body s = halt s (some i.opcode) k s' := by
  simp only [straight, perform, Exec.run_bind, hb]

/-- An instruction that sets its own PC: it completes unless StuckCheck stops it. -/
theorem perform_ok (i : Instr) (body : Exec Unit) (s s' : State) (hb : body.run s = .ok () s')
    (hstuck : isStuck i s s' = false) : perform i body s = .next s' := by
  simp only [perform, hb, hstuck, Bool.false_eq_true, if_false]

theorem perform_error (i : Instr) (body : Exec Unit) (s s' : State) (k : FaultKind) (hb : body.run s = .error k s') :
    perform i body s = halt s (some i.opcode) k s' := by
  simp only [perform, hb]

/-- What an instruction can do: it completes, or it stops with a report that names its own dispatch. It never refuses. -/
theorem perform_cases (i : Instr) (body : Exec Unit) (s : State) :
    (∃ s', body.run s = .ok () s' ∧ isStuck i s s' = false ∧ perform i body s = .next s')
      ∨ (∃ s', body.run s = .ok () s' ∧ isStuck i s s' = true
          ∧ perform i body s = halt s (some i.opcode) (.stuckProgramCounter s.pc) s')
      ∨ (∃ k s', body.run s = .error k s' ∧ perform i body s = halt s (some i.opcode) k s') := by
  simp only [perform]
  split
  · next k s' h => exact .inr (.inr ⟨k, s', h, rfl⟩)
  · next u s' h =>
    split
    · next hs => exact .inr (.inl ⟨s', h, hs, rfl⟩)
    · next hs => exact .inl ⟨s', h, by simpa using hs, rfl⟩

end Sys2Proof.Machine
end

