-- ==== Sys2Proof/Laws/Decode.lean ====
section
/-! SUPPORT. What an instruction's opcode says of it: the operand bytes that decode to it, its mnemonic, its length. -/

namespace Sys2Proof

open Sys2Proof.Machine

/-- The low and high operand bytes of a mode, zero where it has none. -/
def AddrMode.low (m : AddrMode) : Byte := m.operandBytes.getD 0 0
def AddrMode.high (m : AddrMode) : Byte := m.operandBytes.getD 1 0

/-- The decoder's table gives back an instruction from its opcode and its operand bytes. -/
theorem decodeOpcode_opcode (i : Instr) : decodeOpcode i.opcode i.mode.low i.mode.high = some i := by
  have h : ∀ v : Addr, addrOfBytes (loByte v) (hiByte v) = v := addrOfBytes_lo_hi
  cases i <;> dsimp only [Instr.opcode, Instr.mode] <;> first | exact congrArg some (congrArg _ (h _)) | rfl

/-- The operand bytes do not enter into what an opcode stands for, nor into its length. -/
theorem decodeOpcode_shape (op b1 b2 : Byte) :
    (decodeOpcode op b1 b2).map Instr.mnemonic = (decodeOpcode op 0 0).map Instr.mnemonic
      ∧ (decodeOpcode op b1 b2).map Instr.length = (decodeOpcode op 0 0).map Instr.length := by
  unfold decodeOpcode
  generalize op.toNat = n
  split <;> exact ⟨rfl, rfl⟩

/-- The mnemonic an opcode byte stands for. -/
theorem mnemonic_of_opcode (i : Instr) : (decodeOpcode i.opcode 0 0).map Instr.mnemonic = some i.mnemonic := by
  rw [← (decodeOpcode_shape i.opcode i.mode.low i.mode.high).1, decodeOpcode_opcode]
  rfl

/-- The length an opcode byte gives. -/
theorem opcodeLength_opcode (i : Instr) : opcodeLength i.opcode = some i.length := by
  rw [opcodeLength, ← (decodeOpcode_shape i.opcode i.mode.low i.mode.high).2, decodeOpcode_opcode]
  rfl

/-- An instruction whose opcode is one of a list has the mnemonic that every opcode of the list stands for. -/
theorem mnemonic_of_mem {i : Instr} {l : List Byte} (m : Mnemonic)
    (hl : ∀ op ∈ l, (decodeOpcode op 0 0).map Instr.mnemonic = some m) (h : i.opcode ∈ l) : i.mnemonic = m := by
  have h1 := mnemonic_of_opcode i
  rw [hl _ h] at h1
  exact (Option.some.inj h1).symm

/-- The same for one opcode. -/
theorem mnemonic_of_eq {i : Instr} {op : Byte} (m : Mnemonic)
    (hl : (decodeOpcode op 0 0).map Instr.mnemonic = some m) (h : i.opcode = op) : i.mnemonic = m :=
  mnemonic_of_mem m (l := [op]) (by simpa using hl) (by simp [h])

/-- An instruction whose opcode has no operand is the one its opcode decodes to. -/
theorem eq_of_opcode {i j : Instr} (hj : ∀ b1 b2, decodeOpcode j.opcode b1 b2 = some j) (h : i.opcode = j.opcode) :
    i = j := by
  have h1 := decodeOpcode_opcode i
  rw [h, hj] at h1
  exact (Option.some.inj h1).symm

/-- The length of an instruction is the number of its bytes. -/
theorem encode_length (i : Instr) : (encode i).length = i.length := by
  simp only [encode, Instr.length]
  cases i.mode <;> rfl

/-- The table's answer for an opcode byte has that opcode, whatever the operand bytes. -/
theorem opcode_of_decodeOpcode {op b1 b2 : Byte} {i : Instr} (h : decodeOpcode op b1 b2 = some i) : i.opcode = op := by
  have hb : ∀ n : Nat, op.toNat = n → op = BitVec.ofNat 8 n := fun n hn => by
    apply BitVec.eq_of_toNat_eq
    rw [hn, BitVec.toNat_ofNat]
    have := op.isLt
    omega
  unfold decodeOpcode at h
  split at h
  all_goals first
    | (next hn => cases h; exact (hb _ hn).symm)
    | cases h

/-- The table's answer takes as many of the operand bytes as its length says, in order. -/
theorem operandBytes_of_decodeOpcode {op b1 b2 : Byte} {i : Instr} (h : decodeOpcode op b1 b2 = some i) :
    i.mode.operandBytes = [b1, b2].take (i.length - 1) := by
  have h16 : [loByte (addrOfBytes b1 b2), hiByte (addrOfBytes b1 b2)] = [b1, b2] := by
    rw [loByte_addrOfBytes, hiByte_addrOfBytes]
  unfold decodeOpcode at h
  generalize op.toNat = n at h
  split at h
  all_goals first
    | (cases h; first | rfl | exact h16)
    | cases h

/-- An instruction is determined by its bytes. -/
theorem encode_injective {i j : Instr} (h : encode i = encode j) : i = j := by
  simp only [encode, List.cons.injEq] at h
  have hi := decodeOpcode_opcode i
  simp only [AddrMode.low, AddrMode.high, h.1, h.2] at hi
  exact (Option.some.inj (hi.symm.trans (decodeOpcode_opcode j)))

/-- What the decoder answers for a byte string that begins with an opcode of the table. -/
theorem decode_cons {op : Byte} {bs : List Byte} {i : Instr} (h : decodeOpcode op (bs.getD 0 0) (bs.getD 1 0) = some i) :
    decode (op :: bs) = if i.length ≤ bs.length + 1 then .instr i (bs.drop (i.length - 1)) else .truncated := by
  simp only [decode, h]

end Sys2Proof
end

