-- ==== Sys2Proof/Laws/Exec.lean ====
section
/-! SUPPORT. What exec runs for each mnemonic, said once, so that no proof splits exec's 151 arms again: `exec_plain` for
the instructions that end in the common ending, `exec_control` for those that set PC by their own rule. -/

namespace Sys2Proof.Machine

open Sys2Proof

/-- The byte of an Immediate mode. -/
def immediateByte : AddrMode → Byte
  | .immediate b => b
  | _ => 0

/-- The address of an Absolute mode. -/
def absoluteAddr : AddrMode → Addr
  | .absolute a => a
  | _ => 0

/-- A shift of A or of memory, by its mode. -/
def shiftAny (op : Shift) : AddrMode → Exec Unit
  | .implied => shiftAcc op
  | mode => shiftMem op mode

/-- The effect of each mnemonic that ends in the common ending. -/
def plainEffect (m : Mnemonic) (mode : AddrMode) : Exec Unit :=
  match m with
  | .lda => load .a mode
  | .ldx => load .x mode
  | .ldy => load .y mode
  | .sta => store .a mode
  | .stx => store .x mode
  | .sty => store .y mode
  | .tax => transfer .a .x
  | .tay => transfer .a .y
  | .txa => transfer .x .a
  | .tya => transfer .y .a
  | .tsx => transfer .sp .x
  | .txs => transferXToSp
  | .adc => accumulate adcResult mode
  | .sbc => accumulate sbcResult mode
  | .and => accumulate andResult mode
  | .ora => accumulate oraResult mode
  | .eor => accumulate eorResult mode
  | .cmp => compareReg .a mode
  | .cpx => compareReg .x mode
  | .cpy => compareReg .y mode
  | .bit => bitTest mode
  | .inc => modifyMem increment mode
  | .dec => modifyMem decrement mode
  | .inx => modifyReg increment .x
  | .iny => modifyReg increment .y
  | .dex => modifyReg decrement .x
  | .dey => modifyReg decrement .y
  | .asl => shiftAny .asl mode
  | .lsr => shiftAny .lsr mode
  | .rol => shiftAny .rol mode
  | .ror => shiftAny .ror mode
  | .pha => pushA
  | .php => pushStatus
  | .pla => pullA
  | .plp => pullStatus
  | .clc => updateFlags fun f => { f with c := false }
  | .sec => updateFlags fun f => { f with c := true }
  | .cli => updateFlags fun f => { f with i := false }
  | .sei => updateFlags fun f => { f with i := true }
  | .cld => updateFlags fun f => { f with d := false }
  | .sed => updateFlags fun f => { f with d := true }
  | .clv => updateFlags fun f => { f with v := false }
  | .nop => pure ()
  | .bcc | .bcs | .beq | .bne | .bmi | .bpl | .bvc | .bvs | .jmp | .jsr | .rts | .rti | .brk => pure ()

/-- The branch condition of each conditional branch. -/
def branchCondition (m : Mnemonic) (f : Flags) : Bool :=
  match m with
  | .bcc => !f.c
  | .bcs => f.c
  | .beq => f.z
  | .bne => !f.z
  | .bmi => f.n
  | .bpl => !f.n
  | .bvc => !f.v
  | .bvs => f.v
  | _ => false

/-- The effect of each control-flow mnemonic. -/
def controlEffect (m : Mnemonic) (mode : AddrMode) (base : Nat) : Exec Unit :=
  match m with
  | .jmp => jump base mode
  | .jsr => jumpSubroutine base (absoluteAddr mode)
  | .rts => returnSubroutine base
  | .rti => returnInterrupt base
  | .brk => breakInterrupt base
  | m => branch base (branchCondition m) (immediateByte mode)

/-- Every instruction that is not control flow runs its mnemonic's effect and then the common ending. -/
theorem exec_plain (i : Instr) (s : State) (h : i.isControlFlow = false) :
    exec i s = straight i (plainEffect i.mnemonic i.mode) s := by
  cases i <;> first | (cases h; done) | rfl

/-- Every control-flow instruction runs its mnemonic's effect. -/
theorem exec_control (i : Instr) (s : State) (h : i.isControlFlow = true) :
    exec i s = perform i (controlEffect i.mnemonic i.mode i.baseCycles) s := by
  cases i <;> first | (cases h; done) | rfl

/-- The same, by mnemonic. -/
theorem exec_of_plain {i : Instr} {m : Mnemonic} (s : State) (h : i.mnemonic = m) (hm : m.isControlFlow = false) :
    exec i s = straight i (plainEffect m i.mode) s := by
  subst h
  exact exec_plain i s hm

theorem exec_of_control {i : Instr} {m : Mnemonic} (s : State) (h : i.mnemonic = m) (hm : m.isControlFlow = true) :
    exec i s = perform i (controlEffect m i.mode i.baseCycles) s := by
  subst h
  exact exec_control i s hm

theorem exec_jsr (target : Addr) (s : State) :
    exec (.jsrAbs target) s = perform (.jsrAbs target) (jumpSubroutine 6 target) s := rfl

theorem exec_rts (s : State) : exec .rts s = perform .rts (returnSubroutine 6) s := rfl

theorem exec_brk (s : State) : exec .brk s = perform .brk (breakInterrupt 7) s := rfl

theorem exec_rti (s : State) : exec .rti s = perform .rti (returnInterrupt 6) s := rfl

/-! ## How an instruction ends, in the terms of the statements -/

theorem faultOf_eq (s : State) (i : Instr) (k : FaultKind) (t : State) : halt s (some i.opcode) k t = faultOf s i k t := rfl

/-- An instruction in the common ending whose effect leaves PC alone: it completes if it fits, and otherwise faults at its
PC update with its effect done. -/
theorem straight_ends (i : Instr) (body : Exec Unit) (s t : State) (hb : body.run s = .ok () t) (hpc : t.pc = s.pc) :
    (Fits i s → straight i body s = .next (t.advanced i))
      ∧ (¬Fits i s → straight i body s = faultOf s i (.outOfRange (s.pc.toNat + i.length) none) t) := by
  refine ⟨fun h => ?_, fun h => ?_⟩
  · rw [straight_ok i body s t hb hpc h, State.advanced, hpc]
  · exact straight_overflow i body s t hb hpc (by unfold Fits at h; omega)

theorem straight_faults (i : Instr) (body : Exec Unit) (s t : State) (k : FaultKind) (hb : body.run s = .error k t) :
    straight i body s = faultOf s i k t :=
  straight_error i body s t k hb

/-- A control-flow instruction whose effect raises nothing: it completes unless its PC is unchanged under
DETECT_SELF_LOOP. -/
theorem perform_ends (i : Instr) (body : Exec Unit) (s t : State) (hi : i.isControlFlow = true)
    (hb : body.run s = .ok () t) :
    (t.pc ≠ s.pc ∨ s.cfg.detectSelfLoop = false → perform i body s = .next t)
      ∧ (t.pc = s.pc → s.cfg.detectSelfLoop = true → perform i body s = faultOf s i (.stuckProgramCounter s.pc) t) := by
  refine ⟨fun h => perform_ok i body s t hb ?_, fun h1 h2 => ?_⟩
  · rcases h with h | h
    · simp [isStuck, h]
    · simp [isStuck, hi, h]
  · have h3 : isStuck i s t = true := by simp [isStuck, h1, h2]
    simp only [perform, hb, h3, if_true]
    rfl

theorem perform_faults (i : Instr) (body : Exec Unit) (s t : State) (k : FaultKind) (hb : body.run s = .error k t) :
    perform i body s = faultOf s i k t :=
  perform_error i body s t k hb

/-- SetNZ in the arithmetic terms of the statements. -/
theorem setNZ_eq (v : Byte) (f : Flags) : setNZ v f = f.nz v := by
  have h : v.getLsbD 7 = decide (0x80 ≤ v.toNat) := by
    rw [BitVec.getLsbD, Nat.testBit_eq_decide_div_mod_eq]
    have := v.isLt
    apply decide_eq_decide.mpr
    omega
  simp only [setNZ, Flags.nz, h]
  rfl

end Sys2Proof.Machine
end

