-- ==== Sys2Proof/Laws/Via.lean ====
section
/-! SUPPORT. What a VIA register write changes. -/

namespace Sys2Proof.Machine

/-- A write changes no other register's reading. -/
theorem Via.get_set_other (via : Via) (o p : Nat) (v : Byte) (h : p ≠ o) : (via.set o v).get p = via.get p := by
  have hp : p < 16 ∨ 16 ≤ p := by omega
  rcases hp with hp | hp
  · have ho : o < 16 ∨ 16 ≤ o := by omega
    rcases ho with ho | ho
    · interval_cases o <;> interval_cases p <;> first | rfl | exact absurd rfl h
    · have : via.set o v = via := by
        unfold Via.set
        split <;> first | omega | rfl
      rw [this]
  · have h1 : ∀ w : Via, w.get p = 0 := by
      intro w
      unfold Via.get
      split <;> first | omega | rfl
    rw [h1, h1]

/-- Every register but IER reads back what was written. -/
theorem Via.get_set_same (via : Via) (o : Nat) (v : Byte) (h : o < 16) (hi : o ≠ 0xE) : (via.set o v).get o = v := by
  interval_cases o <;> first | rfl | exact absurd rfl hi

/-- Bit 7 of the IER storage stays 0 (60_exceptions.md R275). -/
theorem Via.ier_set (via : Via) (o : Nat) (v : Byte) (h : via.ier.getLsbD 7 = false) :
    (via.set o v).ier.getLsbD 7 = false := by
  unfold Via.set
  split <;> try exact h
  simp only [ierWrite]
  split
  · simpa using h
  · simp

end Sys2Proof.Machine
end

