-- ==== Sys2Proof/Laws/Store.lean ====
section
/-! SUPPORT. When a write raises nothing, and that it changes nothing but its own address. -/

namespace Sys2Proof.Machine

/-- `Writable` is exactly that the write raises nothing. -/
theorem writable_iff (s : State) (a : Addr) (v : Byte) : Writable s a ↔ ∃ t, (memWrite a v).run s = .ok () t := by
  have hr := region_cases a
  have hx := isIgnored_iff a.toNat
  constructor
  · intro h
    rcases hr with ⟨h1, e⟩ | ⟨h1, h2, e⟩ | ⟨h1, h2, h3, e⟩ | ⟨h1, h2, h3, e⟩ | ⟨h1, e⟩ | ⟨h1, h2, h3, h4, h5, e⟩ | ⟨h1, h2, e⟩
    · exact ⟨_, by simp only [EStateM.run, memWrite, e]; rfl⟩
    · refine ⟨s, ?_⟩
      have : s.cfg.strictIgnored = false := by
        have := hx.mp h2
        rcases h with h | h | h | h | h <;> first | exact h.2 | omega
      simp only [EStateM.run, memWrite, e, this, Bool.false_eq_true, if_false]
    · exact ⟨_, by simp only [EStateM.run, memWrite, e]; rfl⟩
    · exact ⟨_, by simp only [EStateM.run, memWrite, e]; rfl⟩
    · exact ⟨_, by simp only [EStateM.run, memWrite, e]; rfl⟩
    · rcases h with h | h | h | h | h <;> first | omega | (rw [h1] at h; cases h.1)
    · rcases h with h | h | h | h | h <;> first | omega | (have := hx.mp h.1; omega)
  · rintro ⟨t, h⟩
    rcases memWrite_cases a v s t h with ⟨e, -⟩ | ⟨e, hs, -⟩ | ⟨id, o, e, -⟩ | ⟨e, -⟩
    · exact .inl ((region_ram_iff a).mp e)
    · rcases hr with ⟨_, e'⟩ | ⟨_, h2, e'⟩ | ⟨_, _, _, e'⟩ | ⟨_, _, _, e'⟩ | ⟨_, e'⟩ | ⟨_, _, _, _, _, e'⟩ | ⟨_, _, e'⟩ <;>
        rw [e] at e' <;> try cases e'
      exact .inr (.inl ⟨h2, hs⟩)
    · rcases hr with ⟨_, e'⟩ | ⟨_, _, e'⟩ | ⟨_, h2, h3, e'⟩ | ⟨_, h2, h3, e'⟩ | ⟨_, e'⟩ | ⟨_, _, _, _, _, e'⟩ | ⟨_, _, e'⟩ <;>
        rw [e] at e' <;> try cases e'
      · exact .inr (.inr (.inl ⟨h2, h3⟩))
      · exact .inr (.inr (.inr (.inl ⟨h2, h3⟩)))
    · rcases hr with ⟨_, e'⟩ | ⟨_, _, e'⟩ | ⟨_, _, _, e'⟩ | ⟨_, _, _, e'⟩ | ⟨h1, e'⟩ | ⟨_, _, _, _, _, e'⟩ | ⟨_, _, e'⟩ <;>
        rw [e] at e' <;> try cases e'
      exact .inr (.inr (.inr (.inr h1)))

/-- A read of a readable address. -/
theorem memRead_readable {s : State} {a : Addr} (h : Readable s a) : (memRead a).run s = .ok (s.peek a) s := by
  apply memRead_ok
  unfold Readable at h
  cases h1 : s.cfg.strictIgnored <;> simp_all

/-- A read of an address that is not readable. -/
theorem memRead_unreadable {s : State} {a : Addr} (h : ¬Readable s a) :
    (memRead a).run s = .error (.ignoredHardwareAccess a .read) s := by
  unfold Readable at h
  rcases memRead_cases a s with h1 | ⟨_, _, h1⟩
  · simp only [not_not] at h
    simp [memRead, EStateM.run, h]
  · exact h1

theorem readable_of_writable {s : State} {a : Addr} (h : Writable s a) : Readable s a := by
  obtain ⟨t, ht⟩ := (writable_iff s a 0).mp h
  rintro ⟨h1, h2⟩
  simp [memWrite, EStateM.run, h1, h2] at ht

/-- Two addresses of one VIA register are one address. -/
theorem region_via_inj (a b : Addr) (id : ViaId) (o : Nat) (ha : region a = .via id o) (hb : region b = .via id o) :
    a = b := by
  apply BitVec.eq_of_toNat_eq
  rcases region_cases a with ⟨_, e⟩ | ⟨_, _, e⟩ | ⟨_, h2, h3, e⟩ | ⟨_, h2, h3, e⟩ | ⟨_, e⟩ | ⟨_, _, _, _, _, e⟩ | ⟨_, _, e⟩ <;>
    rw [ha] at e <;> cases e <;>
    rcases region_cases b with ⟨_, e'⟩ | ⟨_, _, e'⟩ | ⟨_, h2', h3', e'⟩ | ⟨_, h2', h3', e'⟩ | ⟨_, e'⟩ | ⟨_, _, _, _, _, e'⟩ | ⟨_, _, e'⟩ <;>
    rw [hb] at e' <;> simp only [reduceCtorEq, Region.via.injEq, true_and, false_and] at e' <;> omega

/-- A write that raises nothing changes nothing but its own address. -/
theorem memWrite_only (a : Addr) (v : Byte) (s t : State) (h : (memWrite a v).run s = .ok () t) : OnlyStoredAt s t a := by
  rcases memWrite_cases a v s t h with ⟨e, rfl⟩ | ⟨e, hs, rfl⟩ | ⟨id, o, e, rfl⟩ | ⟨e, rfl⟩
  · refine ⟨fun b hb _ => ?_, rfl⟩
    have hn : b.toNat ≠ a.toNat := fun h => hb (BitVec.eq_of_toNat_eq h)
    simp only [State.peek]
    split <;> first | rfl | exact Memory.read_write_other _ _ _ _ hn
  · exact ⟨fun b _ _ => rfl, rfl⟩
  · refine ⟨fun b hb _ => ?_, by cases id <;> rfl⟩
    simp only [State.peek]
    split
    · cases id <;> rfl
    · rfl
    · next id' o' e' =>
      by_cases hid : id' = id
      · subst hid
        have ho : o' ≠ o := fun h => hb (region_via_inj b a id' o (h ▸ e') e)
        cases id' <;> exact Via.get_set_other _ _ _ _ ho
      · cases id <;> cases id' <;> first | rfl | exact absurd rfl hid
    · cases id <;> rfl
    · cases id <;> rfl
    · cases id <;> rfl
  · refine ⟨fun b _ hb => ?_, rfl⟩
    simp only [State.peek]
    split <;> try rfl
    next o' e' =>
    exfalso
    rcases region_cases a with ⟨_, e1⟩ | ⟨_, _, e1⟩ | ⟨_, _, _, e1⟩ | ⟨_, _, _, e1⟩ | ⟨h1, e1⟩ | ⟨_, _, _, _, _, e1⟩ | ⟨_, _, e1⟩ <;>
      rw [e] at e1 <;> simp at e1
    rcases region_cases b with ⟨_, e1⟩ | ⟨_, _, e1⟩ | ⟨_, _, _, e1⟩ | ⟨_, _, _, e1⟩ | ⟨_, e1⟩ | ⟨_, _, _, _, _, e1⟩ | ⟨h2, h3, e1⟩ <;>
      rw [e'] at e1 <;> simp at e1
    exact hb ⟨h1, h2, h3⟩

end Sys2Proof.Machine
end

