-- ==== Sys2Proof/Laws/Frame.lean ====
section
/-! SUPPORT. What no instruction can change, composed from its parts: a relation between the state an `Exec` starts in and
the state it leaves, whether it answers or raises, and the faults it may raise. -/

namespace Sys2Proof.Machine

open Sys2Proof

/-- The faults an effect may raise: OutOfRange, ReadOnlyViolation, and IgnoredHardwareAccess of an ignored address under
strict mode. `Laws/Faults.lean` says where a ReadOnlyViolation comes from. -/
def AllowedFault (cfg : Config) (k : FaultKind) : Prop :=
  (∃ a, k = .outOfRange a none ∧ (a < 0 ∨ 0xFFFF < a)) ∨ (∃ r a v, k = .readOnlyViolation r a v)
    ∨ (cfg.strictIgnored = true ∧ ∃ a x, k = .ignoredHardwareAccess a x ∧ isIgnored a.toNat = true)

/-- What every effect keeps. -/
structure Frame (s t : State) : Prop where
  osRom : t.osRom = s.osRom
  banks : t.banks = s.banks
  irqPending : t.irqPending = s.irqPending
  nmiPending : t.nmiPending = s.nmiPending
  breakFlag : t.flags.b = s.flags.b
  timers : t.timers = s.timers
  remainder : t.remainder = s.remainder
  frameRemaining : t.frameRemaining = s.frameRemaining
  repaintRequests : t.repaintRequests = s.repaintRequests
  keyPending : t.keyPending = s.keyPending
  cancelRequested : t.cancelRequested = s.cancelRequested
  batch : t.batch = s.batch
  run : t.run = s.run
  cfg : t.cfg = s.cfg
  ramWf : s.ram.wf 0x8000 = true → t.ram.wf 0x8000 = true
  systemIer : s.systemVia.ier.getLsbD 7 = false → t.systemVia.ier.getLsbD 7 = false
  userIer : s.userVia.ier.getLsbD 7 = false → t.userVia.ier.getLsbD 7 = false

theorem Frame.refl (s : State) : Frame s s := by constructor <;> first | exact fun h => h | rfl

theorem Frame.trans {s t u : State} (h : Frame s t) (g : Frame t u) : Frame s u where
  osRom := g.osRom.trans h.osRom
  banks := g.banks.trans h.banks
  irqPending := g.irqPending.trans h.irqPending
  nmiPending := g.nmiPending.trans h.nmiPending
  breakFlag := g.breakFlag.trans h.breakFlag
  timers := g.timers.trans h.timers
  remainder := g.remainder.trans h.remainder
  frameRemaining := g.frameRemaining.trans h.frameRemaining
  repaintRequests := g.repaintRequests.trans h.repaintRequests
  keyPending := g.keyPending.trans h.keyPending
  cancelRequested := g.cancelRequested.trans h.cancelRequested
  batch := g.batch.trans h.batch
  run := g.run.trans h.run
  cfg := g.cfg.trans h.cfg
  ramWf := g.ramWf ∘ h.ramWf
  systemIer := g.systemIer ∘ h.systemIer
  userIer := g.userIer ∘ h.userIer

/-- What every effect but a PC or cycle write keeps. -/
def PlainFrame (s t : State) : Prop := Frame s t ∧ t.pc = s.pc ∧ t.cycleCount = s.cycleCount

theorem PlainFrame.refl (s : State) : PlainFrame s s := ⟨.refl s, rfl, rfl⟩

theorem PlainFrame.trans {s t u : State} (h : PlainFrame s t) (g : PlainFrame t u) : PlainFrame s u :=
  ⟨h.1.trans g.1, g.2.1.trans h.2.1, g.2.2.trans h.2.2⟩

/-- Every outcome of `x` keeps the frame, PC and cycleCount, and every fault it raises is an allowed one. -/
def Plain {α : Type} (x : Exec α) : Prop :=
  ∀ s, (∀ a t, x.run s = .ok a t → PlainFrame s t) ∧ (∀ k t, x.run s = .error k t → PlainFrame s t ∧ AllowedFault s.cfg k)

theorem Plain.bind {α β : Type} {x : Exec α} {f : α → Exec β} (hx : Plain x) (hf : ∀ a, Plain (f a)) :
    Plain (x >>= f) := by
  intro s
  have h1 := hx s
  simp only [Exec.run_bind]
  cases hr : x.run s with
  | ok a s' =>
    have h2 := h1.1 a s' hr
    refine ⟨fun b t h => h2.trans ((hf a s').1 b t h), fun k t h => ?_⟩
    have h3 := (hf a s').2 k t h
    exact ⟨h2.trans h3.1, h2.1.cfg ▸ h3.2⟩
  | error k s' =>
    refine ⟨fun _ _ h => (by cases h), fun k' t h => ?_⟩
    cases h
    exact h1.2 k s' hr

/-- A step that raises nothing and keeps the frame, PC and cycleCount. -/
theorem Plain.ok {α : Type} {x : Exec α} (a : State → α) (g : State → State) (h : ∀ s, x.run s = .ok (a s) (g s))
    (hg : ∀ s, PlainFrame s (g s)) : Plain x := by
  intro s
  rw [h s]
  exact ⟨fun _ t ht => by cases ht; exact hg s, fun _ _ h => by cases h⟩

theorem Plain.pure {α : Type} (a : α) : Plain (pure a : Exec α) := .ok (fun _ => a) id (fun _ => rfl) PlainFrame.refl
theorem Plain.getReg (r : Reg) : Plain (getReg r) := .ok _ id (fun _ => rfl) PlainFrame.refl
theorem Plain.getPc : Plain getPc := .ok _ id (fun _ => rfl) PlainFrame.refl
theorem Plain.getFlags : Plain getFlags := .ok _ id (fun _ => rfl) PlainFrame.refl

theorem Plain.setReg (r : Reg) (v : Byte) : Plain (setReg r v) :=
  .ok _ _ (fun _ => rfl) fun s => by refine ⟨?_, ?_, ?_⟩ <;> cases r <;> (try constructor) <;> first | exact fun h => h | rfl

theorem Plain.updateFlags (f : Flags → Flags) (h : ∀ g, (f g).b = g.b) : Plain (updateFlags f) :=
  .ok _ _ (fun _ => rfl) fun s => ⟨by constructor <;> first | exact fun h => h | exact h s.flags | rfl, rfl, rfl⟩

theorem Plain.addr16 (v : Int) : Plain (addr16 v) := by
  intro s
  rcases addr16_cases v s with ⟨_, _, h⟩ | ⟨h0, h⟩ <;> rw [h]
  · exact ⟨fun a t ht => by cases ht; exact .refl s, fun _ _ h => by cases h⟩
  · exact ⟨fun _ _ h => (by cases h), fun k t ht => by cases ht; exact ⟨.refl s, .inl ⟨v, rfl, h0⟩⟩⟩

theorem Plain.memRead (a : Addr) : Plain (memRead a) := by
  intro s
  rcases memRead_cases a s with h | ⟨hs, hi, h⟩ <;> rw [h]
  · exact ⟨fun a t ht => by cases ht; exact .refl s, fun _ _ h => by cases h⟩
  · exact ⟨fun _ _ h => (by cases h), fun k t ht => by
      cases ht; exact ⟨.refl s, .inr (.inr ⟨hs, a, .read, rfl, isIgnored_of_region hi⟩)⟩⟩

theorem Plain.memWrite (a : Addr) (v : Byte) : Plain (memWrite a v) := by
  intro s
  refine ⟨fun u t h => ?_, fun k t h => ?_⟩
  · rcases memWrite_cases a v s t h with ⟨hr, rfl⟩ | ⟨_, _, rfl⟩ | ⟨id, o, _, rfl⟩ | ⟨_, rfl⟩
    · have ha := (region_ram_iff a).mp hr
      exact ⟨by constructor <;> first | exact fun h => h | exact fun h => Memory.write_wf _ _ _ _ h (by omega) | rfl, rfl, rfl⟩
    · exact .refl _
    · cases id <;> exact ⟨by constructor <;> first | exact fun h => h | exact Via.ier_set _ _ _ | rfl, rfl, rfl⟩
    · exact ⟨by constructor <;> first | exact fun h => h | rfl, rfl, rfl⟩
  · obtain ⟨rfl, h⟩ := memWrite_error a v s t k h
    refine ⟨.refl _, ?_⟩
    rcases h with ⟨hi, hs, rfl⟩ | ⟨o, _, rfl⟩ | ⟨o, _, rfl⟩
    · exact .inr (.inr ⟨hs, a, _, rfl, isIgnored_of_region hi⟩)
    · exact .inr (.inl ⟨_, a, v, rfl⟩)
    · exact .inr (.inl ⟨_, a, v, rfl⟩)

theorem Plain.push (v : Byte) : Plain (push v) :=
  .bind (.getReg _) fun _ => .bind (.memWrite _ _) fun _ => .setReg _ _

theorem Plain.pull : Plain pull := .bind (.getReg _) fun _ => .bind (.setReg _ _) fun _ => .memRead _

theorem Plain.push16 (v : Addr) : Plain (push16 v) := .bind (.push _) fun _ => .push _

theorem Plain.pull16 : Plain pull16 := .bind .pull fun _ => .bind .pull fun _ => .pure _

theorem Plain.read16 (a : Addr) : Plain (read16 a) :=
  .bind (.memRead _) fun _ => .bind (.addr16 _) fun _ => .bind (.memRead _) fun _ => .pure _

theorem Plain.ea (m : AddrMode) (h : m ≠ .implied) : Plain (ea m) := by
  have zp : ∀ z, Plain (zeroPagePointer z) := fun z =>
    .bind (.memRead _) fun _ => .bind (.memRead _) fun _ => .pure _
  cases m with
  | implied => exact absurd rfl h
  | immediate b => exact .bind .getPc fun _ => .addr16 _
  | zeroPage z => exact .pure _
  | zeroPageX z => exact .bind (.getReg _) fun _ => .pure _
  | zeroPageY z => exact .bind (.getReg _) fun _ => .pure _
  | absolute a => exact .pure _
  | absoluteX a => exact .bind (.getReg _) fun _ => .addr16 _
  | absoluteY a => exact .bind (.getReg _) fun _ => .addr16 _
  | indirect p => exact .bind (.memRead _) fun _ => .bind (.memRead _) fun _ => .pure _
  | indexedIndirect z => exact .bind (.getReg _) fun _ => zp _
  | indirectIndexed z => exact .bind (zp _) fun _ => .bind (.getReg _) fun _ => .addr16 _

theorem Plain.operand (m : AddrMode) (h : m ≠ .implied) : Plain (operand m) := by
  have hb : Plain (do let a ← Machine.ea m; Machine.memRead a) := .bind (.ea m h) fun _ => .memRead _
  cases m <;> first | exact absurd rfl h | exact .pure _ | exact hb

theorem setNZ_breakFlag (v : Byte) (f : Flags) : (setNZ v f).b = f.b := rfl

theorem pulledFlags_breakFlag (v : Byte) (f : Flags) : (pulledFlags v f).b = f.b := rfl

/-- A mnemonic that needs an operand is never used with Implied, the shifts apart (30_encoding.md R117, R118). -/
theorem mode_ne_implied (i : Instr)
    (h : i.mnemonic ∈ [.lda, .ldx, .ldy, .sta, .stx, .sty, .adc, .sbc, .and, .ora, .eor, .cmp, .cpx, .cpy, .bit, .inc,
      .dec, .jmp]) : i.mode ≠ .implied := by
  revert h
  cases i <;> first
    | exact fun _ => AddrMode.noConfusion
    | (simp only [Instr.mnemonic]; decide)

/-- Every effect in the common ending keeps the frame, PC and cycleCount. -/
theorem Plain.plainEffect (m : Mnemonic) (mode : AddrMode)
    (h : m ∈ [.lda, .ldx, .ldy, .sta, .stx, .sty, .adc, .sbc, .and, .ora, .eor, .cmp, .cpx, .cpy, .bit, .inc, .dec] →
      mode ≠ .implied) : Plain (plainEffect m mode) := by
  have hload : ∀ r, mode ≠ .implied → Plain (load r mode) := fun r h =>
    .bind (.operand mode h) fun _ => .bind (.setReg _ _) fun _ => .updateFlags _ fun _ => rfl
  have hstore : ∀ r, mode ≠ .implied → Plain (store r mode) := fun r h =>
    .bind (.ea mode h) fun _ => .bind (.getReg _) fun _ => .memWrite _ _
  have hacc : ∀ op, (∀ a m f, (op a m f).2.b = f.b) → mode ≠ .implied → Plain (accumulate op mode) := fun op hop h =>
    .bind (.operand mode h) fun _ => .bind (.getReg _) fun _ => .bind .getFlags fun _ =>
      .bind (.setReg _ _) fun _ => .updateFlags _ fun _ => hop _ _ _
  have hcmp : ∀ r, mode ≠ .implied → Plain (compareReg r mode) := fun r h =>
    .bind (.operand mode h) fun _ => .bind (.getReg _) fun _ => .updateFlags _ fun _ => rfl
  have hmem : ∀ op, mode ≠ .implied → Plain (modifyMem op mode) := fun op h =>
    .bind (.ea mode h) fun _ => .bind (.memRead _) fun _ => .bind (.memWrite _ _) fun _ => .updateFlags _ fun _ => rfl
  have hreg : ∀ op r, Plain (modifyReg op r) := fun op r =>
    .bind (.getReg _) fun _ => .bind (.setReg _ _) fun _ => .updateFlags _ fun _ => rfl
  have htr : ∀ s d, Plain (transfer s d) := fun s d =>
    .bind (.getReg _) fun _ => .bind (.setReg _ _) fun _ => .updateFlags _ fun _ => rfl
  have hsh : ∀ op, Plain (shiftAny op mode) := by
    intro op
    have hm : mode ≠ .implied → Plain (shiftMem op mode) := fun h =>
      .bind (.ea mode h) fun _ => .bind (.memRead _) fun _ => .bind .getFlags fun _ =>
        .bind (.memWrite _ _) fun _ => .updateFlags _ fun _ => rfl
    have ha : Plain (shiftAcc op) := .bind (.getReg _) fun _ => .bind .getFlags fun _ =>
        .bind (.setReg _ _) fun _ => .updateFlags _ fun _ => rfl
    cases mode <;> first | exact ha | exact hm AddrMode.noConfusion
  cases m with
  | lda | ldx | ldy => exact hload _ (h (by decide))
  | sta | stx | sty => exact hstore _ (h (by decide))
  | adc | sbc | and | ora | eor => exact hacc _ (fun _ _ _ => rfl) (h (by decide))
  | cmp | cpx | cpy => exact hcmp _ (h (by decide))
  | bit => exact .bind (.operand mode (h (by decide))) fun _ => .bind (.getReg _) fun _ => .updateFlags _ fun _ => rfl
  | inc | dec => exact hmem _ (h (by decide))
  | inx | iny | dex | dey => exact hreg _ _
  | tax | tay | txa | tya | tsx => exact htr _ _
  | txs => exact .bind (.getReg _) fun _ => .setReg _ _
  | asl | lsr | rol | ror => exact hsh _
  | pha => exact .bind (.getReg _) fun _ => .push _
  | php => exact .bind .getFlags fun _ => .push _
  | pla => exact .bind .pull fun _ => .bind (.setReg _ _) fun _ => .updateFlags _ fun _ => rfl
  | plp => exact .bind .pull fun _ => .updateFlags _ fun _ => rfl
  | clc | sec | cli | sei | cld | sed | clv =>
    simp only [Machine.plainEffect]
    apply Plain.updateFlags
    intro g
    rfl
  | nop | bcc | bcs | beq | bne | bmi | bpl | bvc | bvs | jmp | jsr | rts | rti | brk => exact .pure _

/-! ## Effects that also write PC or cycleCount -/

/-- Every outcome of `x` keeps the frame, and every fault it raises is an allowed one. -/
def Framed {α : Type} (x : Exec α) : Prop :=
  ∀ s, (∀ a t, x.run s = .ok a t → Frame s t) ∧ (∀ k t, x.run s = .error k t → Frame s t ∧ AllowedFault s.cfg k)

theorem Plain.framed {α : Type} {x : Exec α} (h : Plain x) : Framed x := fun s =>
  ⟨fun a t ht => ((h s).1 a t ht).1, fun k t ht => ⟨((h s).2 k t ht).1.1, ((h s).2 k t ht).2⟩⟩

theorem Framed.bind {α β : Type} {x : Exec α} {f : α → Exec β} (hx : Framed x) (hf : ∀ a, Framed (f a)) :
    Framed (x >>= f) := by
  intro s
  have h1 := hx s
  simp only [Exec.run_bind]
  cases hr : x.run s with
  | ok a s' =>
    have h2 := h1.1 a s' hr
    refine ⟨fun b t h => h2.trans ((hf a s').1 b t h), fun k t h => ?_⟩
    have h3 := (hf a s').2 k t h
    exact ⟨h2.trans h3.1, h2.cfg ▸ h3.2⟩
  | error k s' =>
    refine ⟨fun _ _ h => (by cases h), fun k' t h => ?_⟩
    cases h
    exact h1.2 k s' hr

theorem Framed.ite {α : Type} (p : Prop) [Decidable p] {x y : Exec α} (hx : Framed x) (hy : Framed y) :
    Framed (if p then x else y) := by split <;> assumption

theorem Framed.setPc (p : Addr) : Framed (setPc p) := by
  intro s
  refine ⟨fun a t h => ?_, fun _ _ h => by cases h⟩
  cases h
  constructor <;> first | exact fun h => h | rfl

theorem Framed.addCycles (n : Nat) : Framed (addCycles n) := by
  intro s
  refine ⟨fun a t h => ?_, fun _ _ h => by cases h⟩
  cases h
  constructor <;> first | exact fun h => h | rfl

theorem Framed.updateFlags (f : Flags → Flags) (h : ∀ g, (f g).b = g.b) : Framed (updateFlags f) :=
  (Plain.updateFlags f h).framed

theorem Framed.enterInterrupt (ret : Addr) (b : Bool) (vector : Addr) : Framed (enterInterrupt ret b vector) :=
  .bind (Plain.push16 _).framed fun _ => .bind Plain.getFlags.framed fun _ => .bind (Plain.push _).framed fun _ =>
    .bind (.updateFlags _ fun _ => rfl) fun _ => .bind (Plain.read16 _).framed fun _ => .setPc _

/-- Every control-flow effect keeps the frame. -/
theorem Framed.controlEffect (m : Mnemonic) (mode : AddrMode) (base : Nat) (h : m = .jmp → mode ≠ .implied) :
    Framed (controlEffect m mode base) := by
  have hb : ∀ c off, Framed (branch base c off) := fun c off =>
    .bind Plain.getPc.framed fun _ => .bind (Plain.addr16 _).framed fun _ => .bind Plain.getFlags.framed fun _ => .ite _
      (.bind (Plain.addr16 _).framed fun _ => .bind (.addCycles _) fun _ => .setPc _)
      (.bind (.addCycles _) fun _ => .setPc _)
  have hret : Framed returnFromInterrupt :=
    .bind Plain.pull.framed fun _ => .bind (.updateFlags _ fun _ => rfl) fun _ => .bind Plain.pull16.framed fun _ => .setPc _
  cases m with
  | jmp => exact .bind (Plain.ea mode (h rfl)).framed fun _ => .bind (.setPc _) fun _ => .addCycles _
  | jsr => exact .bind Plain.getPc.framed fun _ => .bind (Plain.addr16 _).framed fun _ => .bind (Plain.push16 _).framed fun _ =>
      .bind (.setPc _) fun _ => .addCycles _
  | rts => exact .bind Plain.pull16.framed fun _ => .bind (Plain.addr16 _).framed fun _ => .bind (.setPc _) fun _ => .addCycles _
  | rti => exact .bind hret fun _ => .addCycles _
  | brk => exact .bind Plain.getPc.framed fun _ => .bind (Plain.addr16 _).framed fun _ => .bind (.enterInterrupt _ _ _) fun _ => .addCycles _
  | _ => exact hb _ _

/-- Every instruction's whole effect keeps the frame. -/
theorem Framed.advance (len base : Nat) : Framed (advance len base) :=
  .bind Plain.getPc.framed fun _ => .bind (Plain.addr16 _).framed fun _ => .bind (.setPc _) fun _ => .addCycles _

/-- The whole effect of an instruction. -/
def effect (i : Instr) : Exec Unit :=
  if i.isControlFlow then Machine.controlEffect i.mnemonic i.mode i.baseCycles
  else (do Machine.plainEffect i.mnemonic i.mode; Machine.advance i.length i.baseCycles)

theorem exec_effect (i : Instr) (s : State) : exec i s = perform i (effect i) s := by
  unfold effect
  split
  · next h => exact exec_control i s h
  · next h => exact exec_plain i s (by simpa using h)

theorem Framed.effect (i : Instr) : Framed (effect i) := by
  have hm := mode_ne_implied i
  unfold Machine.effect
  split
  · refine .controlEffect _ _ _ fun h => hm (by rw [h]; decide)
  · refine .bind (Plain.plainEffect _ _ fun h => hm ?_).framed fun _ => .advance _ _
    revert h
    generalize i.mnemonic = m
    cases m <;> decide

/-- What an instruction can do, in one line: it answers a state in the frame, or faults with an allowed fault, or is
stopped by StuckCheck under DETECT_SELF_LOOP. -/
theorem exec_cases (i : Instr) (s : State) :
    (∃ t, exec i s = .next t ∧ (effect i).run s = .ok () t ∧ Frame s t)
      ∨ (∃ t, exec i s = faultOf s i (.stuckProgramCounter s.pc) t ∧ (effect i).run s = .ok () t ∧ t.pc = s.pc
          ∧ (i.isControlFlow = true → s.cfg.detectSelfLoop = true))
      ∨ (∃ k t, exec i s = faultOf s i k t ∧ AllowedFault s.cfg k) := by
  rw [exec_effect]
  rcases perform_cases i (effect i) s with ⟨t, h1, h2, h3⟩ | ⟨t, h1, h2, h3⟩ | ⟨k, t, h1, h2⟩
  · exact .inl ⟨t, h3, h1, (Framed.effect i s).1 _ t h1⟩
  · refine .inr (.inl ⟨t, h3, h1, ?_, ?_⟩)
    · simp only [isStuck, Bool.and_eq_true, beq_iff_eq] at h2
      exact h2.1
    · intro hc
      simp only [isStuck, hc, Bool.not_true, Bool.false_or, Bool.and_eq_true] at h2
      exact h2.2
  · exact .inr (.inr ⟨k, t, h2, ((Framed.effect i s).2 k t h1).2⟩)

end Sys2Proof.Machine
end

