-- ==== Sys2Proof/Laws/Faults.lean ====
section
/-! SUPPORT. Where a ReadOnlyViolation comes from: only a store or a read-modify-write raises one, and it names its own
effective address, in the paged-ROM window or in OS ROM (60_exceptions.md R245; 20_memory.md R69, R71). -/

namespace Sys2Proof.Machine

open Sys2Proof

/-- No fault of `x` is a ReadOnlyViolation. -/
def NoRomFault {α : Type} (x : Exec α) : Prop :=
  ∀ s k t, x.run s = .error k t → ∀ r a v, k ≠ .readOnlyViolation r a v

theorem NoRomFault.bind {α β : Type} {x : Exec α} {f : α → Exec β} (hx : NoRomFault x) (hf : ∀ a, NoRomFault (f a)) :
    NoRomFault (x >>= f) := by
  intro s k t h
  simp only [Exec.run_bind] at h
  cases hr : x.run s with
  | ok a s' => rw [hr] at h; exact hf a s' k t h
  | error k' s' => rw [hr] at h; cases h; exact hx s _ _ hr

/-- A step that raises nothing. -/
theorem NoRomFault.ok {α : Type} {x : Exec α} (h : ∀ s, ∃ a t, x.run s = .ok a t) : NoRomFault x := by
  intro s k t hk
  obtain ⟨a, u, hu⟩ := h s
  rw [hu] at hk
  cases hk

theorem NoRomFault.pure {α : Type} (a : α) : NoRomFault (pure a : Exec α) := .ok fun s => ⟨a, s, rfl⟩
theorem NoRomFault.getReg (r : Reg) : NoRomFault (getReg r) := .ok fun _ => ⟨_, _, rfl⟩
theorem NoRomFault.setReg (r : Reg) (v : Byte) : NoRomFault (setReg r v) := .ok fun _ => ⟨_, _, rfl⟩
theorem NoRomFault.getPc : NoRomFault getPc := .ok fun _ => ⟨_, _, rfl⟩
theorem NoRomFault.setPc (p : Addr) : NoRomFault (setPc p) := .ok fun _ => ⟨_, _, rfl⟩
theorem NoRomFault.getFlags : NoRomFault getFlags := .ok fun _ => ⟨_, _, rfl⟩
theorem NoRomFault.updateFlags (f : Flags → Flags) : NoRomFault (updateFlags f) := .ok fun _ => ⟨_, _, rfl⟩
theorem NoRomFault.addCycles (n : Nat) : NoRomFault (addCycles n) := .ok fun _ => ⟨_, _, rfl⟩
theorem NoRomFault.push (v : Byte) : NoRomFault (push v) := .ok fun s => ⟨_, _, push_apply v s⟩
theorem NoRomFault.pull : NoRomFault pull := .ok fun s => ⟨_, _, pull_apply s⟩
theorem NoRomFault.push16 (v : Addr) : NoRomFault (push16 v) := .bind (.push _) fun _ => .push _
theorem NoRomFault.pull16 : NoRomFault pull16 := .bind .pull fun _ => .bind .pull fun _ => .pure _

theorem NoRomFault.addr16 (v : Int) : NoRomFault (addr16 v) := by
  intro s k t h
  rcases addr16_cases v s with ⟨_, _, e⟩ | ⟨_, e⟩ <;> rw [e] at h <;> cases h
  exact fun _ _ _ => FaultKind.noConfusion

theorem NoRomFault.memRead (a : Addr) : NoRomFault (memRead a) := by
  intro s k t h
  rcases memRead_cases a s with e | ⟨_, _, e⟩ <;> rw [e] at h <;> cases h
  exact fun _ _ _ => FaultKind.noConfusion

theorem NoRomFault.read16 (a : Addr) : NoRomFault (read16 a) :=
  .bind (.memRead _) fun _ => .bind (.addr16 _) fun _ => .bind (.memRead _) fun _ => .pure _

theorem NoRomFault.unimplemented {α : Type} (m : AddrMode) :
    NoRomFault (raise (.unimplementedAddressingMode m) : Exec α) := by
  intro s k t h
  cases h
  exact fun _ _ _ => FaultKind.noConfusion

theorem NoRomFault.ea (m : AddrMode) : NoRomFault (ea m) := by
  have zp : ∀ z, NoRomFault (zeroPagePointer z) := fun z =>
    .bind (.memRead _) fun _ => .bind (.memRead _) fun _ => .pure _
  cases m with
  | implied => exact .unimplemented _
  | immediate b => exact .bind .getPc fun _ => .addr16 _
  | zeroPage z => exact .pure _
  | zeroPageX z => exact .bind (.getReg _) fun _ => .pure _
  | zeroPageY z => exact .bind (.getReg _) fun _ => .pure _
  | absolute a => exact .pure _
  | absoluteX a => exact .bind (.getReg _) fun _ => .addr16 _
  | absoluteY a => exact .bind (.getReg _) fun _ => .addr16 _
  | indirect p => exact .bind (.memRead _) fun _ => .bind (.memRead _) fun _ => .pure _
  | indexedIndirect z => exact .bind (.getReg _) fun _ => zp _
  | indirectIndexed z => exact .bind (zp _) fun _ => .bind (.getReg _) fun _ => .addr16 _

theorem NoRomFault.operand (m : AddrMode) : NoRomFault (operand m) := by
  have hb : NoRomFault (do let a ← Machine.ea m; Machine.memRead a) := .bind (.ea m) fun _ => .memRead _
  cases m <;> first | exact .unimplemented _ | exact .pure _ | exact hb

theorem NoRomFault.advance (len base : Nat) : NoRomFault (advance len base) :=
  .bind .getPc fun _ => .bind (.addr16 _) fun _ => .bind (.setPc _) fun _ => .addCycles _

/-- The mnemonics that write memory at an effective address; the shifts also have a form that does not. -/
def storingMnemonics : List Mnemonic := [.sta, .stx, .sty, .inc, .dec, .asl, .lsr, .rol, .ror]

/-- Every other effect in the common ending raises no ReadOnlyViolation. -/
theorem NoRomFault.plainEffect (m : Mnemonic) (mode : AddrMode) (h : m ∉ storingMnemonics) :
    NoRomFault (plainEffect m mode) := by
  have hload : ∀ r, NoRomFault (load r mode) := fun r =>
    .bind (.operand mode) fun _ => .bind (.setReg _ _) fun _ => .updateFlags _
  have hacc : ∀ op, NoRomFault (accumulate op mode) := fun op =>
    .bind (.operand mode) fun _ => .bind (.getReg _) fun _ => .bind .getFlags fun _ =>
      .bind (.setReg _ _) fun _ => .updateFlags _
  have hcmp : ∀ r, NoRomFault (compareReg r mode) := fun r =>
    .bind (.operand mode) fun _ => .bind (.getReg _) fun _ => .updateFlags _
  have hreg : ∀ op r, NoRomFault (modifyReg op r) := fun op r =>
    .bind (.getReg _) fun _ => .bind (.setReg _ _) fun _ => .updateFlags _
  have htr : ∀ s d, NoRomFault (transfer s d) := fun s d =>
    .bind (.getReg _) fun _ => .bind (.setReg _ _) fun _ => .updateFlags _
  cases m with
  | sta | stx | sty | inc | dec | asl | lsr | rol | ror => exact absurd (by decide) h
  | lda | ldx | ldy => exact hload _
  | adc | sbc | and | ora | eor => exact hacc _
  | cmp | cpx | cpy => exact hcmp _
  | bit => exact .bind (.operand mode) fun _ => .bind (.getReg _) fun _ => .updateFlags _
  | inx | iny | dex | dey => exact hreg _ _
  | tax | tay | txa | tya | tsx => exact htr _ _
  | txs => exact .bind (.getReg _) fun _ => .setReg _ _
  | pha => exact .bind (.getReg _) fun _ => .push _
  | php => exact .bind .getFlags fun _ => .push _
  | pla => exact .bind .pull fun _ => .bind (.setReg _ _) fun _ => .updateFlags _
  | plp => exact .bind .pull fun _ => .updateFlags _
  | clc | sec | cli | sei | cld | sed | clv =>
    simp only [Machine.plainEffect]
    exact .updateFlags _
  | nop | bcc | bcs | beq | bne | bmi | bpl | bvc | bvs | jmp | jsr | rts | rti | brk => exact .pure _

/-- No control-flow effect raises a ReadOnlyViolation: the stack is RAM. -/
theorem NoRomFault.controlEffect (m : Mnemonic) (mode : AddrMode) (base : Nat) :
    NoRomFault (controlEffect m mode base) := by
  have hb : ∀ c off, NoRomFault (branch base c off) := fun c off =>
    .bind .getPc fun _ => .bind (.addr16 _) fun _ => .bind .getFlags fun _ => by
      split
      · exact .bind (.addr16 _) fun _ => .bind (.addCycles _) fun _ => .setPc _
      · exact .bind (.addCycles _) fun _ => .setPc _
  have hret : NoRomFault returnFromInterrupt :=
    .bind .pull fun _ => .bind (.updateFlags _) fun _ => .bind .pull16 fun _ => .setPc _
  have hent : ∀ ret b v, NoRomFault (enterInterrupt ret b v) := fun ret b v =>
    .bind (.push16 _) fun _ => .bind .getFlags fun _ => .bind (.push _) fun _ => .bind (.updateFlags _) fun _ =>
      .bind (.read16 _) fun _ => .setPc _
  cases m with
  | jmp => exact .bind (.ea mode) fun _ => .bind (.setPc _) fun _ => .addCycles _
  | jsr => exact .bind .getPc fun _ => .bind (.addr16 _) fun _ => .bind (.push16 _) fun _ => .bind (.setPc _) fun _ =>
      .addCycles _
  | rts => exact .bind .pull16 fun _ => .bind (.addr16 _) fun _ => .bind (.setPc _) fun _ => .addCycles _
  | rti => exact .bind hret fun _ => .addCycles _
  | brk => exact .bind .getPc fun _ => .bind (.addr16 _) fun _ => .bind (hent _ _ _) fun _ => .addCycles _
  | _ => exact hb _ _

/-- What a ReadOnlyViolation at an address says of it: the paged-ROM window, or OS ROM where no write is allowed. -/
def RomAddress (s : State) (r : RomRegion) (a : Addr) : Prop :=
  (r = .pagedRom s.selectedBank ∧ 0x8000 ≤ a.toNat ∧ a.toNat ≤ 0xBFFF)
    ∨ (r = .osRom ∧ 0xC000 ≤ a.toNat ∧ isIgnored a.toNat = false ∧ ¬Writable s a)

/-- Every ReadOnlyViolation of `x` is one of a write to `a`. -/
def RomFaultAt (a : Addr) {α : Type} (x : Exec α) : Prop :=
  ∀ s k t, x.run s = .error k t → ∀ r b v, k = .readOnlyViolation r b v → b = a ∧ RomAddress s r a

theorem NoRomFault.at {α : Type} {x : Exec α} (h : NoRomFault x) (a : Addr) : RomFaultAt a x :=
  fun s k t hk r b v e => absurd e (h s k t hk r b v)

theorem RomFaultAt.memWrite (a : Addr) (v : Byte) : RomFaultAt a (memWrite a v) := by
  intro s k t h r b w e
  have hw : ¬Writable s a := fun hw => by
    obtain ⟨u, hu⟩ := (writable_iff s a v).mp hw
    rw [hu] at h
    cases h
  obtain ⟨-, h⟩ := memWrite_error a v s t k h
  subst e
  rcases h with ⟨_, _, e⟩ | ⟨o, hr, e⟩ | ⟨o, hr, e⟩ <;> cases e <;> refine ⟨rfl, ?_⟩ <;>
    rcases region_cases a with ⟨_, e⟩ | ⟨_, _, e⟩ | ⟨_, _, _, e⟩ | ⟨_, _, _, e⟩ | ⟨_, e⟩ | ⟨hi, h1, _, _, _, e⟩ | ⟨h1, h2, e⟩ <;>
    rw [hr] at e <;> try exact Region.noConfusion e
  · exact .inr ⟨rfl, h1, hi, hw⟩
  · exact .inl ⟨rfl, h1, h2⟩

/-- A read before `f` changes nothing. -/
theorem RomFaultAt.read {a : Addr} {α β : Type} {x : Exec α} {f : α → Exec β} (hp : Pure x) (hx : NoRomFault x)
    (hf : ∀ b, RomFaultAt a (f b)) : RomFaultAt a (x >>= f) := by
  intro s k t h
  rcases hp s with ⟨b, e⟩ | ⟨k', e⟩ <;> simp only [Exec.run_bind, e] at h
  · exact hf b s k t h
  · cases h
    exact hx.at a s _ _ e

theorem RomFaultAt.andThen {a : Addr} {α β : Type} {x : Exec α} {f : α → Exec β} (hx : RomFaultAt a x)
    (hf : ∀ b, NoRomFault (f b)) : RomFaultAt a (x >>= f) := by
  intro s k t h
  simp only [Exec.run_bind] at h
  cases hr : x.run s with
  | ok b s' => rw [hr] at h; exact fun r c v e => absurd e (hf b s' k t h r c v)
  | error k' s' => rw [hr] at h; cases h; exact hx s _ _ hr

/-- Every ReadOnlyViolation of `x` is one of a write to the effective address. -/
def RomFaultAtEa (m : AddrMode) (x : Exec Unit) : Prop :=
  ∀ s k t, x.run s = .error k t → ∀ r a v, k = .readOnlyViolation r a v → (ea m).run s = .ok a s ∧ RomAddress s r a

theorem RomFaultAtEa.of_ea {m : AddrMode} {f : Addr → Exec Unit} (hf : ∀ a, RomFaultAt a (f a)) :
    RomFaultAtEa m (ea m >>= f) := by
  intro s k t h r b v e
  rcases Pure.ea m s with ⟨a, ha⟩ | ⟨k', ha⟩ <;> simp only [Exec.run_bind, ha] at h
  · obtain ⟨rfl, h2⟩ := hf a s k t h r b v e
    exact ⟨ha, h2⟩
  · cases h
    exact absurd e (NoRomFault.ea m s _ _ ha r b v)

theorem RomFaultAtEa.andThen {m : AddrMode} {x y : Exec Unit} (hx : RomFaultAtEa m x) (hy : NoRomFault y) :
    RomFaultAtEa m (do x; y) := by
  intro s k t h
  simp only [Exec.run_bind] at h
  cases hr : x.run s with
  | ok b s' => rw [hr] at h; exact fun r c v e => absurd e (hy s' k t h r c v)
  | error k' s' => rw [hr] at h; cases h; exact hx s _ _ hr

theorem NoRomFault.atEa {x : Exec Unit} (h : NoRomFault x) (m : AddrMode) : RomFaultAtEa m x :=
  fun s k t hk r a v e => absurd e (h s k t hk r a v)

theorem RomFaultAtEa.plainEffect (m : Mnemonic) (mode : AddrMode) : RomFaultAtEa mode (plainEffect m mode) := by
  have hst : ∀ r, RomFaultAtEa mode (store r mode) := fun r =>
    .of_ea fun _ => .read (.getReg _) (.getReg _) fun _ => .memWrite _ _
  have hmem : ∀ op, RomFaultAtEa mode (modifyMem op mode) := fun op =>
    .of_ea fun _ => .read (.memRead _) (.memRead _) fun _ => .andThen (.memWrite _ _) fun _ => .updateFlags _
  have hsh : ∀ op, RomFaultAtEa mode (shiftAny op mode) := by
    intro op
    have hm : RomFaultAtEa mode (shiftMem op mode) :=
      .of_ea fun _ => .read (.memRead _) (.memRead _) fun _ => .read .getFlags .getFlags fun _ =>
        .andThen (.memWrite _ _) fun _ => .updateFlags _
    have ha : NoRomFault (shiftAcc op) := .bind (.getReg _) fun _ => .bind .getFlags fun _ =>
      .bind (.setReg _ _) fun _ => .updateFlags _
    cases mode <;> first | exact ha.atEa _ | exact hm
  by_cases h : m ∈ storingMnemonics
  · cases m with
    | sta | stx | sty => exact hst _
    | inc | dec => exact hmem _
    | asl | lsr | rol | ror => exact hsh _
    | _ => exact absurd h (by decide)
  · exact (NoRomFault.plainEffect m mode h).atEa _

/-- A ReadOnlyViolation of an effect: its mnemonic writes memory, and the address is its effective address. -/
theorem effect_romFault (i : Instr) (s t : State) (r : RomRegion) (a : Addr) (v : Byte)
    (h : (effect i).run s = .error (.readOnlyViolation r a v) t) :
    i.mnemonic ∈ storingMnemonics ∧ (ea i.mode).run s = .ok a s ∧ RomAddress s r a := by
  simp only [effect] at h
  split at h
  · exact absurd rfl (NoRomFault.controlEffect _ _ _ s _ t h r a v)
  · refine ⟨?_, ((RomFaultAtEa.plainEffect i.mnemonic i.mode).andThen (.advance _ _)) s _ t h r a v rfl⟩
    by_contra hm
    exact absurd rfl ((NoRomFault.plainEffect _ _ hm).bind (fun _ => .advance _ _) s _ t h r a v)

/-- A ReadOnlyViolation of an instruction is one of its effect. -/
theorem exec_romFault (i : Instr) (s u : State) (r : RomRegion) (a : Addr) (v : Byte)
    (h : exec i s = faultOf s i (.readOnlyViolation r a v) u) :
    i.mnemonic ∈ storingMnemonics ∧ (ea i.mode).run s = .ok a s ∧ RomAddress s r a := by
  rw [exec_effect] at h
  rcases perform_cases i (effect i) s with ⟨t, _, _, e⟩ | ⟨t, _, _, e⟩ | ⟨k, t, hk, e⟩ <;> rw [e] at h
  · cases h
  · simp [halt, faultOf, reportOf] at h
  · simp only [halt, faultOf, reportOf, Host.Outcome.fault.injEq, Fault.raised.injEq, FaultReport.mk.injEq] at h
    rw [h.1.1] at hk
    exact effect_romFault i s t r a v hk

end Sys2Proof.Machine
end

