-- ==== Sys2Proof/Laws/Flags.lean ====
section
/-! SUPPORT. The flag computations in the arithmetic terms of the rules: bits as comparisons, the adders as sums. -/

namespace Sys2Proof.Machine

/-- Bit 7 of a byte. -/
theorem getLsbD_seven (v : Byte) : v.getLsbD 7 = decide (0x80 ≤ v.toNat) := by
    rw [BitVec.getLsbD, Nat.testBit_eq_decide_div_mod_eq]
    have := v.isLt
    apply decide_eq_decide.mpr
    omega

/-- Bit 0 of a byte. -/
theorem getLsbD_zero (v : Byte) : v.getLsbD 0 = decide (v.toNat % 2 = 1) := by
    rw [BitVec.getLsbD, Nat.testBit_eq_decide_div_mod_eq]
    simp

/-- The signed value of a byte. -/
theorem byte_toInt (v : Byte) : v.toInt = if v.toNat < 128 then (v.toNat : Int) else v.toNat - 256 := by
  rw [BitVec.toInt_eq_toNat_cond]; split <;> split <;> omega

/-- The adder's V bit: both inputs differ in sign from the result. -/
theorem overflow_bit (a m r : Byte) : (((a ^^^ r) &&& (m ^^^ r) &&& 0x80) != 0) =
   (decide (0x80 ≤ a.toNat) != decide (0x80 ≤ r.toNat) && decide (0x80 ≤ m.toNat) != decide (0x80 ≤ r.toNat)) := by
  rw [← getLsbD_seven, ← getLsbD_seven, ← getLsbD_seven]
  have : ((a ^^^ r) &&& (m ^^^ r) &&& 0x80) = if ((a.getLsbD 7 != r.getLsbD 7) && (m.getLsbD 7 != r.getLsbD 7)) then 0x80 else 0 := by
    apply BitVec.eq_of_getLsbD_eq
    intro k hk
    have h80 : (0x80 : Byte).getLsbD k = decide (k = 7) := by interval_cases k <;> rfl
    rw [BitVec.getLsbD_and, BitVec.getLsbD_and, BitVec.getLsbD_xor, BitVec.getLsbD_xor, h80]
    split
    · next h => rw [h80]; by_cases h7 : k = 7 <;> simp_all
    · next h => by_cases h7 : k = 7 <;> simp_all
  rw [this]
  split <;> simp_all

/-- The adder's V is the signed overflow. -/
theorem addBin_overflow (a m : Byte) (c : Bool) : (addBin a m c).v = decide (a.toInt + m.toInt + c.toNat < -128 ∨ 127 < a.toInt + m.toInt + c.toNat) := by
  simp only [addBin, overflow_bit, u8, BitVec.toNat_ofNat]
  rw [byte_toInt, byte_toInt, Bool.eq_iff_iff]
  have := a.isLt; have := m.isLt
  have hc : c.toNat ≤ 1 := by cases c <;> simp
  simp only [Bool.and_eq_true, bne_iff_ne, ne_eq, decide_eq_decide, decide_eq_true_iff]
  split <;> split <;> omega

/-- The binary adder as a sum (41_arithmetic_logic.md R150). -/
theorem addBin_eq (a m : Byte) (c : Bool) (sum : Nat) (h : sum = a.toNat + m.toNat + c.toNat) :
  addBin a m c = ⟨BitVec.ofNat 8 sum, decide (0xFF < sum), decide (sum % 256 = 0), decide (0x80 ≤ sum % 256), 
     decide (a.toInt + m.toInt + c.toNat < -128 ∨ 127 < a.toInt + m.toInt + c.toNat)⟩ := by
  have hv := addBin_overflow a m c
  have hz : (BitVec.ofNat 8 sum == 0) = decide (sum % 256 = 0) := by
    rw [Bool.eq_iff_iff, beq_iff_eq, decide_eq_true_iff, ← BitVec.toNat_inj, BitVec.toNat_ofNat]; rfl
  have hn : (BitVec.ofNat 8 sum).getLsbD 7 = decide (0x80 ≤ sum % 256) := by rw [getLsbD_seven, BitVec.toNat_ofNat]
  simp only [addBin] at hv ⊢
  subst h
  simp only [u8] at hv ⊢
  rw [hv, hz, hn]

/-- The signed value of a complement. -/
theorem complement_toInt (m : Byte) : (~~~m).toInt = - m.toInt - 1 := by
  rw [byte_toInt, byte_toInt, BitVec.toNat_not]
  have := m.isLt
  split <;> split <;> omega

/-- The binary adder on a complemented operand as a difference (41_arithmetic_logic.md R153). -/
theorem addBin_complement_eq (a m : Byte) (c : Bool) (diff : Int) (h : diff = a.toNat - m.toNat - (1 - c.toNat : Int)) :
  addBin a (~~~ m) c = ⟨BitVec.ofInt 8 diff, decide (0 ≤ diff), decide (diff % 256 = 0), decide (0x80 ≤ diff % 256),
     decide (a.toInt - m.toInt - (1 - c.toNat : Int) < -128 ∨ 127 < a.toInt - m.toInt - (1 - c.toNat : Int))⟩ := by
  rw [addBin_eq _ _ _ _ rfl, complement_toInt, BitVec.toNat_not]
  have := a.isLt; have := m.isLt
  have hc : c.toNat ≤ 1 := by cases c <;> simp
  have hr : BitVec.ofNat 8 (a.toNat + (2 ^ 8 - 1 - m.toNat) + c.toNat) = BitVec.ofInt 8 diff := by
    rw [← BitVec.ofInt_natCast]
    apply BitVec.eq_of_toInt_eq
    rw [BitVec.toInt_ofInt, BitVec.toInt_ofInt]
    have : ((a.toNat + (2 ^ 8 - 1 - m.toNat) + c.toNat : Nat) : Int) = diff + 1 * 256 := by omega
    rw [this]
    simp only [Nat.reducePow, one_mul]
    exact Int.add_bmod_right _ _
  rw [hr]
  congr 1
  · apply decide_eq_decide.mpr; omega
  · apply decide_eq_decide.mpr; omega
  · apply decide_eq_decide.mpr; omega
  · apply decide_eq_decide.mpr; omega

/-- The low digit of a byte. -/
theorem lowDigit_toNat (b : Byte) : (b &&& 0x0F).toNat = b.toNat % 16 := by
  rw [BitVec.toNat_and]; exact Nat.and_two_pow_sub_one_eq_mod _ 4

/-- The high digit of a byte, in place. -/
theorem highDigit_toNat (b : Byte) : (b &&& 0xF0).toNat = b.toNat / 16 * 16 := by
  revert b; decide

/-- The low digit of a number. -/
theorem lowDigit_nat (n : Nat) : n &&& 0x0F = n % 16 := Nat.and_two_pow_sub_one_eq_mod _ 4

/-- Compare as comparisons (41_arithmetic_logic.md R158). -/
theorem compareFlags_eq (r m : Byte) (f : Flags) : compareFlags r m f = { f with
      c := decide (m.toNat ≤ r.toNat), z := decide (r.toNat = m.toNat)
      n := decide (0x80 ≤ ((r.toNat : Int) - m.toNat) % 256) } := by
  have hz : (r == m) = decide (r.toNat = m.toNat) := by
    rw [Bool.eq_iff_iff]; simp [BitVec.toNat_inj]
  have hn : (r - m).getLsbD 7 = decide (0x80 ≤ ((r.toNat : Int) - m.toNat) % 256) := by
    rw [getLsbD_seven]
    apply decide_eq_decide.mpr
    rw [BitVec.toNat_sub]
    have := r.isLt; have := m.isLt
    omega
  simp only [compareFlags, hz, hn, ge_iff_le]

/-- The result of a shift or rotate as arithmetic (R181-R184). -/
theorem shift_byte_toNat (op : Shift) (v : Byte) (c : Bool) : (op.byte v c).toNat = match op with
   | .asl => 2 * v.toNat % 256 | .lsr => v.toNat / 2 | .rol => (2 * v.toNat + c.toNat) % 256 | .ror => v.toNat / 2 + 128 * c.toNat := by
  cases op
  · simp only [Shift.byte, BitVec.toNat_shiftLeft]; rw [Nat.shiftLeft_eq]; omega
  · simp [Shift.byte, Nat.shiftRight_eq_div_pow]
  · revert v; cases c <;> decide
  · revert v; cases c <;> decide

/-- The carry out of a shift or rotate as arithmetic (R181-R184). -/
theorem shift_carry_eq (op : Shift) (v : Byte) : op.carry v = match op with
   | .asl | .rol => decide (0x80 ≤ v.toNat) | .lsr | .ror => decide (v.toNat % 2 = 1) := by
  cases op <;> simp only [Shift.carry, getLsbD_seven, getLsbD_zero]

end Sys2Proof.Machine
end

