-- ==== Sys2Proof/Laws/Keep.lean ====
section
/-! SUPPORT. A piece of state that an effect leaves alone, composed from its parts. A proof about one instruction walks its
effect with `Keep.bind` and closes each part with one of the lemmas below, whose hypotheses are true by rfl. -/

namespace Sys2Proof.Machine

open Sys2Proof

/-- Whenever `x` answers, `f` of the state is as before. -/
def Keep {β : Type} (f : State → β) {α : Type} (x : Exec α) : Prop := ∀ s a t, x.run s = .ok a t → f t = f s

variable {β : Type} {f : State → β}

theorem Keep.bind {α γ : Type} {x : Exec α} {g : α → Exec γ} (hx : Keep f x) (hg : ∀ a, Keep f (g a)) :
    Keep f (x >>= g) := by
  intro s b t h
  simp only [Exec.run_bind] at h
  cases hr : x.run s with
  | ok a s' => rw [hr] at h; exact (hg a s' b t h).trans (hx s a s' hr)
  | error k s' => rw [hr] at h; cases h

/-- Reads, effective addresses and operands keep everything. -/
theorem Keep.pure {α : Type} {x : Exec α} (h : Pure x) : Keep f x := by
  intro s a t ht
  rcases h s with ⟨b, h⟩ | ⟨k, h⟩ <;> rw [h] at ht <;> cases ht
  rfl

theorem Keep.ite {α : Type} {p : Prop} [Decidable p] {x y : Exec α} (hx : Keep f x) (hy : Keep f y) :
    Keep f (if p then x else y) := by
  split <;> assumption

theorem Keep.setReg {r : Reg} {v : Byte} (h : ∀ s : State, f (s.withReg r v) = f s) : Keep f (setReg r v) := by
  intro s a t ht
  cases ht
  exact h s

theorem Keep.setPc {p : Addr} (h : ∀ s : State, f (s.withPc p) = f s) : Keep f (setPc p) := by
  intro s a t ht
  cases ht
  exact h s

theorem Keep.updateFlags {g : Flags → Flags} (h : ∀ s : State, f (s.withFlags (g s.flags)) = f s) :
    Keep f (updateFlags g) := by
  intro s a t ht
  cases ht
  exact h s

theorem Keep.addCycles {n : Nat} (h : ∀ (s : State) (m : Nat), f (s.withCycleCount m) = f s) : Keep f (addCycles n) := by
  intro s a t ht
  cases ht
  exact h s _

theorem Keep.memWrite {a : Addr} {v : Byte} (h1 : ∀ (s : State) m, f (s.withRam m) = f s)
    (h2 : ∀ (s : State) m, f (s.withSelectedBank m) = f s) (h3 : ∀ (s : State) i m, f (s.withVia i m) = f s) :
    Keep f (memWrite a v) := by
  intro s u t ht
  rcases memWrite_cases a v s t ht with ⟨_, rfl⟩ | ⟨_, _, rfl⟩ | ⟨_, _, _, rfl⟩ | ⟨_, rfl⟩
  · exact h1 _ _
  · rfl
  · exact h3 _ _ _
  · exact h2 _ _

/-- A push writes RAM and SP only. -/
theorem Keep.push {v : Byte} (h : ∀ (s : State) m sp, f { s with ram := m, sp := sp } = f s) : Keep f (push v) := by
  intro s a t ht
  rw [push_apply] at ht
  cases ht
  exact h s _ _

/-- A pull writes SP only. -/
theorem Keep.pull (h : ∀ (s : State) sp, f { s with sp := sp } = f s) : Keep f pull := by
  intro s a t ht
  rw [pull_apply] at ht
  cases ht
  exact h s _

/-- What an instruction's effect keeps, the instruction keeps. -/
theorem Keep.exec {i : Instr} {s t : State} (h : exec i s = .next t) (hk : Keep f (effect i)) : f t = f s := by
  rcases exec_cases i s with ⟨u, hu, he, _⟩ | ⟨u, hu, _⟩ | ⟨k, u, hu, _⟩ <;> rw [hu] at h <;> cases h
  exact hk s _ _ he

end Sys2Proof.Machine
end

