-- ==== Sys2Proof/Laws/Operands.lean ====
section
/-! SUPPORT. The addressing modes' parts, and the effects of the instruction families once their operand or effective
address is known. -/

namespace Sys2Proof.Machine

/-- The value of two bytes. -/
theorem addrOfBytes_toNat (lo hi : Byte) : (addrOfBytes lo hi).toNat = lo.toNat + 256 * hi.toNat := by
  simp only [addrOfBytes, BitVec.toNat_append]
  rw [← Nat.shiftLeft_add_eq_or_of_lt (by exact lo.isLt), Nat.shiftLeft_eq]; omega

/-- `Addr16` of an address plus a small number that stays in the address space. -/
theorem addr16_next (p : Addr) (n : Nat) (s : State) (h : p.toNat + n ≤ 0xFFFF) :
    (addr16 ((p.toNat : Int) + n)).run s = .ok (p + BitVec.ofNat 16 n) s := by
  have := addr16_ok (p.toNat + n) s h
  rwa [Nat.cast_add, ofNat_toNat_add] at this

theorem addr16_next_one (p : Addr) (s : State) (h : p.toNat + 1 ≤ 0xFFFF) :
    (addr16 ((p.toNat : Int) + 1)).run s = .ok (p + 1) s :=
  addr16_next p 1 s h

theorem addr16_next_two (p : Addr) (s : State) (h : p.toNat + 2 ≤ 0xFFFF) :
    (addr16 ((p.toNat : Int) + 2)).run s = .ok (p + 2) s :=
  addr16_next p 2 s h

/-- A zero-page pointer's two bytes. -/
theorem zeroPagePointer_apply (z : Byte) (s : State) : (zeroPagePointer z).run s = .ok (addrOfBytes (s.ram.read z.toNat) (s.ram.read ((z.toNat + 1) % 256))) s := by
  have h2 : (zext16 (z + 1)).toNat = (z.toNat + 1) % 256 := by rw [zext16_toNat, BitVec.toNat_add]; rfl
  simp only [zeroPagePointer, Exec.run_bind, memRead_ram _ s (zext16_ram z), memRead_ram _ s (zext16_ram (z+1)), h2, zext16_toNat, Exec.run_pure]

/-- The address of a JMP-indirect pointer's high byte. -/
theorem samePageNext_eq (p q : Addr) (hpq : p.toNat / 256 = q.toNat / 256) (hq : q.toNat % 256 = (p.toNat + 1) % 256) :
    samePageNext p = q := by
  apply BitVec.eq_of_toNat_eq
  have hlo : (loByte p).toNat = p.toNat % 256 := by rw [loByte, BitVec.extractLsb'_toNat]; simp
  have h1 : (p &&& (0xFF00 : Addr)).toNat = p.toNat / 256 * 256 := by
    have : (p &&& (0xFF00 : Addr)) = (p >>> 8) <<< 8 := by
      apply BitVec.eq_of_getLsbD_eq
      intro k hk
      have hc : (0xFF00 : Addr).getLsbD k = decide (8 ≤ k) := by interval_cases k <;> rfl
      rw [BitVec.getLsbD_and, hc, BitVec.getLsbD_shiftLeft, BitVec.getLsbD_ushiftRight]
      by_cases h8 : 8 ≤ k
      · have e1 : 8 + (k - 8) = k := by omega
        have e2 : ¬ k < 8 := by omega
        simp [h8, e1, e2, hk]
      · have : k < 8 := by omega
        simp [h8, this]
    rw [this, BitVec.toNat_shiftLeft, BitVec.toNat_ushiftRight, Nat.shiftLeft_eq, Nat.shiftRight_eq_div_pow]
    have := p.isLt
    omega
  have h2 : (zext16 (loByte p + 1)).toNat = (p.toNat + 1) % 256 := by rw [zext16_toNat, BitVec.toNat_add, hlo]; simp
  rw [samePageNext, BitVec.toNat_or, h1, h2]
  have hm : (p.toNat + 1) % 256 < 2 ^ 8 := by omega
  rw [show p.toNat / 256 * 256 = (p.toNat / 256) <<< 8 by rw [Nat.shiftLeft_eq], ← Nat.shiftLeft_add_eq_or_of_lt hm, Nat.shiftLeft_eq]
  omega

/-- ADC to EOR write A and the flags. -/
theorem accumulate_apply (op : Byte → Byte → Flags → Byte × Flags) (m : AddrMode) (s : State) (v : Byte) (h : (operand m).run s = .ok v s) :
  (accumulate op m).run s = .ok () { s with a := (op s.a v s.flags).1, flags := (op s.a v s.flags).2 } := by
  simp only [accumulate, Exec.run_bind, h, getReg_apply, getFlags_apply, setReg_apply, updateFlags_apply]; rfl

/-- A load writes its register, Z and N. -/
theorem load_apply (r : Reg) (m : AddrMode) (s : State) (v : Byte) (h : (operand m).run s = .ok v s) :
    (load r m).run s = .ok () ((s.withReg r v).withFlags (s.flags.nz v)) := by
  have hf : (s.withReg r v).flags = s.flags := by cases r <;> rfl
  simp only [load, Exec.run_bind, h, setReg_apply, updateFlags_apply, setNZ_eq, hf]

/-- A store is one write at the effective address. -/
theorem store_apply (r : Reg) (m : AddrMode) (s : State) (a : Addr) (h : (ea m).run s = .ok a s) :
    (store r m).run s = (memWrite a (s.reg r)).run s := by
  simp only [store, Exec.run_bind, h, getReg_apply]

/-- A shift of memory is not a shift of A. -/
theorem shiftAny_mem (op : Shift) (m : AddrMode) (h : m ≠ .implied) : shiftAny op m = shiftMem op m := by
  cases m <;> first | rfl | exact absurd rfl h

/-- What a store leaves alone. -/
theorem OnlyStoredAt.pc {s t : State} {a : Addr} (h : OnlyStoredAt s t a) : t.pc = s.pc := by rw [h.2]
theorem OnlyStoredAt.flags {s t : State} {a : Addr} (h : OnlyStoredAt s t a) : t.flags = s.flags := by rw [h.2]

end Sys2Proof.Machine
end

