-- ==== Sys2Proof/Laws/PerInstr.lean ====
section
/-! SUPPORT. The family `EncodedLength`, per instruction: the encoding has as many bytes as the mode's length, between
one and three (30_encoding.md R100, R101). -/

namespace Sys2Proof.Laws.EncodedLength

open Sys2Proof Sys2Proof.Machine

/-- The encoding's length is the instruction's length, 1 to 3. -/
def Statement (i : Instr) : Prop := (encode i).length = i.length ∧ 1 ≤ i.length ∧ i.length ≤ 3

theorem of_length (i : Instr) : Statement i := ⟨encode_length i, length_pos i⟩

theorem ldaIzx (zp8 : Byte) : Statement (.ldaIzx zp8) := of_length _
theorem ldaZp (zp8 : Byte) : Statement (.ldaZp zp8) := of_length _
theorem ldaImm (imm8 : Byte) : Statement (.ldaImm imm8) := of_length _
theorem ldaAbs (addr16 : Addr) : Statement (.ldaAbs addr16) := of_length _
theorem ldaIzy (zp8 : Byte) : Statement (.ldaIzy zp8) := of_length _
theorem ldaZpx (zp8 : Byte) : Statement (.ldaZpx zp8) := of_length _
theorem ldaAby (addr16 : Addr) : Statement (.ldaAby addr16) := of_length _
theorem ldaAbx (addr16 : Addr) : Statement (.ldaAbx addr16) := of_length _
theorem ldxImm (imm8 : Byte) : Statement (.ldxImm imm8) := of_length _
theorem ldxZp (zp8 : Byte) : Statement (.ldxZp zp8) := of_length _
theorem ldxAbs (addr16 : Addr) : Statement (.ldxAbs addr16) := of_length _
theorem ldxZpy (zp8 : Byte) : Statement (.ldxZpy zp8) := of_length _
theorem ldxAby (addr16 : Addr) : Statement (.ldxAby addr16) := of_length _
theorem ldyImm (imm8 : Byte) : Statement (.ldyImm imm8) := of_length _
theorem ldyZp (zp8 : Byte) : Statement (.ldyZp zp8) := of_length _
theorem ldyAbs (addr16 : Addr) : Statement (.ldyAbs addr16) := of_length _
theorem ldyZpx (zp8 : Byte) : Statement (.ldyZpx zp8) := of_length _
theorem ldyAbx (addr16 : Addr) : Statement (.ldyAbx addr16) := of_length _
theorem staIzx (zp8 : Byte) : Statement (.staIzx zp8) := of_length _
theorem staZp (zp8 : Byte) : Statement (.staZp zp8) := of_length _
theorem staAbs (addr16 : Addr) : Statement (.staAbs addr16) := of_length _
theorem staIzy (zp8 : Byte) : Statement (.staIzy zp8) := of_length _
theorem staZpx (zp8 : Byte) : Statement (.staZpx zp8) := of_length _
theorem staAby (addr16 : Addr) : Statement (.staAby addr16) := of_length _
theorem staAbx (addr16 : Addr) : Statement (.staAbx addr16) := of_length _
theorem stxZp (zp8 : Byte) : Statement (.stxZp zp8) := of_length _
theorem stxAbs (addr16 : Addr) : Statement (.stxAbs addr16) := of_length _
theorem stxZpy (zp8 : Byte) : Statement (.stxZpy zp8) := of_length _
theorem styZp (zp8 : Byte) : Statement (.styZp zp8) := of_length _
theorem styAbs (addr16 : Addr) : Statement (.styAbs addr16) := of_length _
theorem styZpx (zp8 : Byte) : Statement (.styZpx zp8) := of_length _
theorem tax : Statement .tax := of_length _
theorem tay : Statement .tay := of_length _
theorem txa : Statement .txa := of_length _
theorem tya : Statement .tya := of_length _
theorem tsx : Statement .tsx := of_length _
theorem txs : Statement .txs := of_length _
theorem adcIzx (zp8 : Byte) : Statement (.adcIzx zp8) := of_length _
theorem adcZp (zp8 : Byte) : Statement (.adcZp zp8) := of_length _
theorem adcImm (imm8 : Byte) : Statement (.adcImm imm8) := of_length _
theorem adcAbs (addr16 : Addr) : Statement (.adcAbs addr16) := of_length _
theorem adcIzy (zp8 : Byte) : Statement (.adcIzy zp8) := of_length _
theorem adcZpx (zp8 : Byte) : Statement (.adcZpx zp8) := of_length _
theorem adcAby (addr16 : Addr) : Statement (.adcAby addr16) := of_length _
theorem adcAbx (addr16 : Addr) : Statement (.adcAbx addr16) := of_length _
theorem sbcIzx (zp8 : Byte) : Statement (.sbcIzx zp8) := of_length _
theorem sbcZp (zp8 : Byte) : Statement (.sbcZp zp8) := of_length _
theorem sbcImm (imm8 : Byte) : Statement (.sbcImm imm8) := of_length _
theorem sbcAbs (addr16 : Addr) : Statement (.sbcAbs addr16) := of_length _
theorem sbcIzy (zp8 : Byte) : Statement (.sbcIzy zp8) := of_length _
theorem sbcZpx (zp8 : Byte) : Statement (.sbcZpx zp8) := of_length _
theorem sbcAby (addr16 : Addr) : Statement (.sbcAby addr16) := of_length _
theorem sbcAbx (addr16 : Addr) : Statement (.sbcAbx addr16) := of_length _
theorem andIzx (zp8 : Byte) : Statement (.andIzx zp8) := of_length _
theorem andZp (zp8 : Byte) : Statement (.andZp zp8) := of_length _
theorem andImm (imm8 : Byte) : Statement (.andImm imm8) := of_length _
theorem andAbs (addr16 : Addr) : Statement (.andAbs addr16) := of_length _
theorem andIzy (zp8 : Byte) : Statement (.andIzy zp8) := of_length _
theorem andZpx (zp8 : Byte) : Statement (.andZpx zp8) := of_length _
theorem andAby (addr16 : Addr) : Statement (.andAby addr16) := of_length _
theorem andAbx (addr16 : Addr) : Statement (.andAbx addr16) := of_length _
theorem oraIzx (zp8 : Byte) : Statement (.oraIzx zp8) := of_length _
theorem oraZp (zp8 : Byte) : Statement (.oraZp zp8) := of_length _
theorem oraImm (imm8 : Byte) : Statement (.oraImm imm8) := of_length _
theorem oraAbs (addr16 : Addr) : Statement (.oraAbs addr16) := of_length _
theorem oraIzy (zp8 : Byte) : Statement (.oraIzy zp8) := of_length _
theorem oraZpx (zp8 : Byte) : Statement (.oraZpx zp8) := of_length _
theorem oraAby (addr16 : Addr) : Statement (.oraAby addr16) := of_length _
theorem oraAbx (addr16 : Addr) : Statement (.oraAbx addr16) := of_length _
theorem eorIzx (zp8 : Byte) : Statement (.eorIzx zp8) := of_length _
theorem eorZp (zp8 : Byte) : Statement (.eorZp zp8) := of_length _
theorem eorImm (imm8 : Byte) : Statement (.eorImm imm8) := of_length _
theorem eorAbs (addr16 : Addr) : Statement (.eorAbs addr16) := of_length _
theorem eorIzy (zp8 : Byte) : Statement (.eorIzy zp8) := of_length _
theorem eorZpx (zp8 : Byte) : Statement (.eorZpx zp8) := of_length _
theorem eorAby (addr16 : Addr) : Statement (.eorAby addr16) := of_length _
theorem eorAbx (addr16 : Addr) : Statement (.eorAbx addr16) := of_length _
theorem cmpIzx (zp8 : Byte) : Statement (.cmpIzx zp8) := of_length _
theorem cmpZp (zp8 : Byte) : Statement (.cmpZp zp8) := of_length _
theorem cmpImm (imm8 : Byte) : Statement (.cmpImm imm8) := of_length _
theorem cmpAbs (addr16 : Addr) : Statement (.cmpAbs addr16) := of_length _
theorem cmpIzy (zp8 : Byte) : Statement (.cmpIzy zp8) := of_length _
theorem cmpZpx (zp8 : Byte) : Statement (.cmpZpx zp8) := of_length _
theorem cmpAby (addr16 : Addr) : Statement (.cmpAby addr16) := of_length _
theorem cmpAbx (addr16 : Addr) : Statement (.cmpAbx addr16) := of_length _
theorem cpxImm (imm8 : Byte) : Statement (.cpxImm imm8) := of_length _
theorem cpxZp (zp8 : Byte) : Statement (.cpxZp zp8) := of_length _
theorem cpxAbs (addr16 : Addr) : Statement (.cpxAbs addr16) := of_length _
theorem cpyImm (imm8 : Byte) : Statement (.cpyImm imm8) := of_length _
theorem cpyZp (zp8 : Byte) : Statement (.cpyZp zp8) := of_length _
theorem cpyAbs (addr16 : Addr) : Statement (.cpyAbs addr16) := of_length _
theorem bitZp (zp8 : Byte) : Statement (.bitZp zp8) := of_length _
theorem bitAbs (addr16 : Addr) : Statement (.bitAbs addr16) := of_length _
theorem incZp (zp8 : Byte) : Statement (.incZp zp8) := of_length _
theorem incAbs (addr16 : Addr) : Statement (.incAbs addr16) := of_length _
theorem incZpx (zp8 : Byte) : Statement (.incZpx zp8) := of_length _
theorem incAbx (addr16 : Addr) : Statement (.incAbx addr16) := of_length _
theorem decZp (zp8 : Byte) : Statement (.decZp zp8) := of_length _
theorem decAbs (addr16 : Addr) : Statement (.decAbs addr16) := of_length _
theorem decZpx (zp8 : Byte) : Statement (.decZpx zp8) := of_length _
theorem decAbx (addr16 : Addr) : Statement (.decAbx addr16) := of_length _
theorem inx : Statement .inx := of_length _
theorem iny : Statement .iny := of_length _
theorem dex : Statement .dex := of_length _
theorem dey : Statement .dey := of_length _
theorem aslZp (zp8 : Byte) : Statement (.aslZp zp8) := of_length _
theorem aslAcc : Statement .aslAcc := of_length _
theorem aslAbs (addr16 : Addr) : Statement (.aslAbs addr16) := of_length _
theorem aslZpx (zp8 : Byte) : Statement (.aslZpx zp8) := of_length _
theorem aslAbx (addr16 : Addr) : Statement (.aslAbx addr16) := of_length _
theorem lsrZp (zp8 : Byte) : Statement (.lsrZp zp8) := of_length _
theorem lsrAcc : Statement .lsrAcc := of_length _
theorem lsrAbs (addr16 : Addr) : Statement (.lsrAbs addr16) := of_length _
theorem lsrZpx (zp8 : Byte) : Statement (.lsrZpx zp8) := of_length _
theorem lsrAbx (addr16 : Addr) : Statement (.lsrAbx addr16) := of_length _
theorem rolZp (zp8 : Byte) : Statement (.rolZp zp8) := of_length _
theorem rolAcc : Statement .rolAcc := of_length _
theorem rolAbs (addr16 : Addr) : Statement (.rolAbs addr16) := of_length _
theorem rolZpx (zp8 : Byte) : Statement (.rolZpx zp8) := of_length _
theorem rolAbx (addr16 : Addr) : Statement (.rolAbx addr16) := of_length _
theorem rorZp (zp8 : Byte) : Statement (.rorZp zp8) := of_length _
theorem rorAcc : Statement .rorAcc := of_length _
theorem rorAbs (addr16 : Addr) : Statement (.rorAbs addr16) := of_length _
theorem rorZpx (zp8 : Byte) : Statement (.rorZpx zp8) := of_length _
theorem rorAbx (addr16 : Addr) : Statement (.rorAbx addr16) := of_length _
theorem bccRel (off8 : Byte) : Statement (.bccRel off8) := of_length _
theorem bcsRel (off8 : Byte) : Statement (.bcsRel off8) := of_length _
theorem beqRel (off8 : Byte) : Statement (.beqRel off8) := of_length _
theorem bneRel (off8 : Byte) : Statement (.bneRel off8) := of_length _
theorem bmiRel (off8 : Byte) : Statement (.bmiRel off8) := of_length _
theorem bplRel (off8 : Byte) : Statement (.bplRel off8) := of_length _
theorem bvcRel (off8 : Byte) : Statement (.bvcRel off8) := of_length _
theorem bvsRel (off8 : Byte) : Statement (.bvsRel off8) := of_length _
theorem jmpAbs (addr16 : Addr) : Statement (.jmpAbs addr16) := of_length _
theorem jmpInd (ptr16 : Addr) : Statement (.jmpInd ptr16) := of_length _
theorem jsrAbs (addr16 : Addr) : Statement (.jsrAbs addr16) := of_length _
theorem rts : Statement .rts := of_length _
theorem pha : Statement .pha := of_length _
theorem php : Statement .php := of_length _
theorem pla : Statement .pla := of_length _
theorem plp : Statement .plp := of_length _
theorem clc : Statement .clc := of_length _
theorem sec : Statement .sec := of_length _
theorem cli : Statement .cli := of_length _
theorem sei : Statement .sei := of_length _
theorem cld : Statement .cld := of_length _
theorem sed : Statement .sed := of_length _
theorem clv : Statement .clv := of_length _
theorem nop : Statement .nop := of_length _
theorem brk : Statement .brk := of_length _
theorem rti : Statement .rti := of_length _

end Sys2Proof.Laws.EncodedLength
end

