-- ==== Sys2Proof/Laws/Timers.lean ====
section
/-! SUPPORT. What ticking the timers changes, and what it keeps. -/

namespace Sys2Proof.Machine

/-- What a tick of any timer keeps, and that its results stay in range. -/
structure TickFrame (s t : State) : Prop where
  only : t = { s with
    systemVia := t.systemVia, userVia := t.userVia, remainder := t.remainder, frameRemaining := t.frameRemaining
    repaintRequests := t.repaintRequests }
  systemIer : t.systemVia.ier = s.systemVia.ier
  userIer : t.userVia.ier = s.userVia.ier
  frameBounds : 1 ≤ s.frameRemaining ∧ s.frameRemaining ≤ Config.framePeriod →
    1 ≤ t.frameRemaining ∧ t.frameRemaining ≤ Config.framePeriod

theorem TickFrame.refl (s : State) : TickFrame s s := ⟨rfl, rfl, rfl, id⟩

theorem TickFrame.trans {s t u : State} (h : TickFrame s t) (g : TickFrame t u) : TickFrame s u where
  only := by rw [g.only, h.only]
  systemIer := g.systemIer.trans h.systemIer
  userIer := g.userIer.trans h.userIer
  frameBounds := g.frameBounds ∘ h.frameBounds

/-- A Timer 1 tick changes its own counter and IFR and nothing else of its VIA. -/
theorem Via.systemTick_only (via : Via) (n : Nat) :
    (via.systemTick n).1 = { via with t1 := (via.systemTick n).1.t1, ifr := (via.systemTick n).1.ifr }
      ∧ (via.systemTick n).2.nmi = false := by
  unfold Via.systemTick
  split
  · dsimp only
    split <;> exact ⟨rfl, rfl⟩
  · exact ⟨rfl, rfl⟩

theorem Via.systemTick_ier (via : Via) (n : Nat) : (via.systemTick n).1.ier = via.ier := by
  rw [(Via.systemTick_only via n).1]

/-- The frame timer stays in range. -/
theorem frameTicks_bounds (n r : Nat) (h : 1 ≤ r ∧ r ≤ Config.framePeriod) :
    1 ≤ (frameTicks n r).1 ∧ (frameTicks n r).1 ≤ Config.framePeriod := by
  induction n generalizing r with
  | zero => exact h
  | succ n ih =>
    simp only [frameTicks]
    split
    · exact ih _ (by decide)
    · exact ih _ (by omega)

theorem systemTick_frame (tm : TimerName) (s : State) (n : Nat) :
    TickFrame s (systemTick tm s n).1 ∧ (systemTick tm s n).2.nmi = false := by
  cases tm with
  | systemViaT1 => exact ⟨⟨rfl, Via.systemTick_ier _ _, rfl, id⟩, (Via.systemTick_only _ _).2⟩
  | userViaT1 => exact ⟨⟨rfl, rfl, Via.systemTick_ier _ _, id⟩, (Via.systemTick_only _ _).2⟩
  | frame =>
    simp only [systemTick, frameSystemTick]
    split
    · exact ⟨⟨rfl, rfl, rfl, frameTicks_bounds n s.frameRemaining⟩, rfl⟩
    · exact ⟨⟨rfl, rfl, rfl, frameTicks_bounds n s.frameRemaining⟩, rfl⟩

theorem tickAll_frame (l : List TimerName) (n : Nat) (s : State) :
    TickFrame s (tickAll l n s).1 ∧ (tickAll l n s).2.nmi = false := by
  induction l generalizing s with
  | nil => exact ⟨.refl s, rfl⟩
  | cons tm l ih =>
    have h1 := systemTick_frame tm s n
    have h2 := ih (systemTick tm s n).1
    refine ⟨h1.1.trans h2.1, ?_⟩
    simp only [tickAll, InterruptState.or, h1.2, h2.2, Bool.or_self]

/-- What cpuTick can do (60_exceptions.md R298). -/
theorem cpuTick_frame (n : Nat) (s : State) :
    TickFrame s (cpuTick n s).1 ∧ (cpuTick n s).2.nmi = false ∧ (cpuTick n s).1.remainder < Config.clockRatio := by
  have h0 : TickFrame s { s with remainder := (n + s.remainder) % Config.clockRatio } := ⟨rfl, rfl, rfl, id⟩
  have hr : ∀ (l : List TimerName) (n : Nat) (s : State), (tickAll l n s).1.remainder = s.remainder := by
    intro l n s
    induction l generalizing s with
    | nil => rfl
    | cons tm l ih =>
      simp only [tickAll]
      rw [ih]
      cases tm <;> simp only [systemTick, frameSystemTick]
      split <;> rfl
  simp only [cpuTick]
  split
  · exact ⟨h0, rfl, Nat.mod_lt _ (by decide)⟩
  · have h1 := tickAll_frame s.timers ((n + s.remainder) / Config.clockRatio)
      { s with remainder := (n + s.remainder) % Config.clockRatio }
    refine ⟨h0.trans h1.1, h1.2, ?_⟩
    rw [hr]
    exact Nat.mod_lt _ (by decide)

/-! ## Interrupt flags, and the order of the timers -/

/-- An interrupt source whose bit is bit k is enabled by bit k of IER. -/
theorem Via.enabled_eq (via : Via) (k : Nat) (bit : Byte) (hk : k < 8) (hb : ∀ j < 8, bit.getLsbD j = decide (j = k)) : via.enabled bit = via.ier.getLsbD k := by
  unfold Via.enabled
  have e : via.ier &&& bit = if via.ier.getLsbD k then bit else 0 := by
    apply BitVec.eq_of_getLsbD_eq
    intro j hj
    rw [BitVec.getLsbD_and, hb j hj]
    by_cases hjk : j = k
    · subst hjk
      cases h : via.ier.getLsbD j <;> simp [hb j hj]
    · cases h : via.ier.getLsbD k <;> simp [hjk, hb j hj]
  rw [e]
  cases h : via.ier.getLsbD k
  · simp
  · have : bit ≠ 0 := by intro h0; have := hb k hk; rw [h0] at this; simp at this
    simp; exact this

/-- Its flag sets bit k of IFR, and bit 7 when it is enabled. -/
theorem Via.flagSource_eq (via : Via) (k : Nat) (bit : Byte) (hk : k < 8) (hb : ∀ j < 8, bit.getLsbD j = decide (j = k)) : via.flagSource bit = { via with ifr := via.ifr ||| bit ||| (if via.ier.getLsbD k then 0x80 else 0) } := by
  have := Via.enabled_eq via k bit hk hb
  unfold Via.enabled at this
  unfold Via.flagSource
  rw [← this]
  simp

/-- Setting a flag and ticking Timer 1 of one VIA do not depend on their order. -/
theorem Via.systemTick_flagSource (via : Via) (b : Byte) (n : Nat) : ((via.flagSource b).systemTick n) = ((via.systemTick n).1.flagSource b, (via.systemTick n).2) := by
  unfold Via.systemTick
  split
  · next h =>
    have h' : (via.flagSource b).t1 = via.t1 := rfl
    simp only [h'] at h ⊢
    rw [if_pos h]
    simp only [Via.enabled, Via.flagSource]
    split
    · simp only [Prod.mk.injEq, Via.mk.injEq, true_and, and_true]
      ac_rfl
    · rfl
  · next h =>
    have h' : (via.flagSource b).t1 = via.t1 := rfl
    rw [h'] at h
    rw [if_neg h]

/-- Two timers tick in either order, and neither changes what the other answers. -/
theorem systemTick_comm (a b : TimerName) (hab : a ≠ b) (s : State) (n : Nat) :
  (systemTick b (systemTick a s n).1 n).1 = (systemTick a (systemTick b s n).1 n).1 ∧ (systemTick b (systemTick a s n).1 n).2 = (systemTick b s n).2 := by
  have hier : ∀ via : Via, (via.systemTick n).1.ier = via.ier := fun via => Via.systemTick_ier via n
  cases a <;> cases b <;> first | exact absurd rfl hab | exact ⟨rfl, rfl⟩ | skip
  · -- the System VIA and the frame timer
    simp only [systemTick, frameSystemTick]
    by_cases h : s.cfg.frameIrq = .systemViaCa1 ∧ (frameTicks n s.frameRemaining).2 > 0
    · simp only [h, and_self, if_true, Via.systemTick_flagSource]
      simp [Via.enabled, hier]
    · simp only [h, if_false, and_self]
  · simp only [systemTick, frameSystemTick]
    by_cases h : s.cfg.frameIrq = .systemViaCa1 ∧ (frameTicks n s.frameRemaining).2 > 0
    · simp only [h, and_self, if_true]
    · simp only [h, if_false, and_self]
  · simp only [systemTick, frameSystemTick]
    by_cases h : s.cfg.frameIrq = .systemViaCa1 ∧ (frameTicks n s.frameRemaining).2 > 0
    · simp only [h, and_self, if_true, Via.systemTick_flagSource]
    · simp only [h, if_false, and_self]
  · simp only [systemTick, frameSystemTick]
    by_cases h : s.cfg.frameIrq = .systemViaCa1 ∧ (frameTicks n s.frameRemaining).2 > 0
    · simp only [h, and_self, if_true]
    · simp only [h, if_false, and_self]

/-- The least of the given bounds: the one that is given and above none of the others; none when none is given. -/
theorem leastBound_spec (l : List (Option Nat)) :
    (∀ n, leastBound l = some n ↔ (some n ∈ l ∧ ∀ t, some t ∈ l → n ≤ t)) ∧ (leastBound l = none ↔ ∀ o ∈ l, o = none) := by
  induction l with
  | nil => simp [leastBound]
  | cons o l ih =>
    cases o with
    | none => simp only [leastBound]; refine ⟨fun n => ?_, ?_⟩
              · rw [ih.1 n]; simp
              · rw [ih.2]; simp
    | some t =>
      simp only [leastBound]
      cases hl : leastBound l with
      | none =>
        have h0 := ih.2.mp hl
        refine ⟨fun n => ?_, by simp⟩
        constructor
        · intro h; cases h; refine ⟨by simp, fun u hu => ?_⟩
          simp only [List.mem_cons, Option.some.injEq] at hu
          rcases hu with rfl | hu
          · exact Nat.le_refl _
          · have := h0 _ hu; cases this
        · rintro ⟨h1, h2⟩
          simp only [List.mem_cons, Option.some.injEq] at h1
          rcases h1 with rfl | h1
          · rfl
          · have := h0 _ h1; cases this
      | some u =>
        obtain ⟨h1, h2⟩ := (ih.1 u).mp hl
        refine ⟨fun n => ?_, by simp⟩
        simp only [Option.some.injEq, List.mem_cons]
        constructor
        · intro h; subst h
          refine ⟨?_, fun w hw => ?_⟩
          · rcases Nat.le_total t u with h | h
            · left; omega
            · right; rw [Nat.min_eq_right h]; exact h1
          · rcases hw with rfl | hw
            · omega
            · have := h2 w hw; omega
        · rintro ⟨h3, h4⟩
          have a1 := h4 t (.inl rfl)
          have a2 := h4 u (.inr h1)
          rcases h3 with rfl | h3
          · omega
          · have := h2 n h3; omega

end Sys2Proof.Machine
end

