-- ==== Sys2Proof/Laws/RunLoop.lean ====
section
/-! SUPPORT. What one dispatch, one batch end and one step can do, said once. -/

namespace Sys2Proof.Machine

open Sys2Proof

/-- What an interrupt entry leaves, for the vector's target. -/
def entered (target : Addr) (s : State) : State :=
  { entryState s.pc false target s with cycleCount := s.cycleCount + 7 }

theorem performEntry_nmi (s : State) :
    performEntry nmiEntry s
      = .next { entered (addrOfBytes (s.osRom.read 0x3FFA) (s.osRom.read 0x3FFB)) s with nmiPending := false } := by
  have h : ∀ u : State, clearNmi.run u = .ok () { u with nmiPending := false } := fun _ => rfl
  simp only [performEntry, nmiEntry, Exec.run_bind, getPc_apply, enterInterrupt_nmi, h, addCycles_apply]
  rfl

theorem performEntry_irq (s : State) :
    performEntry irqEntry s
      = .next { entered (addrOfBytes (s.osRom.read 0x3FFE) (s.osRom.read 0x3FFF)) s with irqPending := false } := by
  have h : ∀ u : State, clearIrq.run u = .ok () { u with irqPending := false } := fun _ => rfl
  simp only [performEntry, irqEntry, Exec.run_bind, getPc_apply, enterInterrupt_break, h, addCycles_apply]
  rfl

/-- A pending IRQ with I clear and no NMI is what the next dispatch takes. -/
theorem dispatch_takes_irq (s : State) (hn : s.nmiPending = false) (hq : s.irqPending = true) (hi : s.flags.i = false) :
    ∃ t : State, dispatch s = .next t ∧ t.irqPending = false ∧ t.flags.i = true
      ∧ t.pc = addrOfBytes (s.osRom.read 0x3FFE) (s.osRom.read 0x3FFF) := by
  have h : dispatch s = performEntry irqEntry s := by rw [dispatch, takesNmi, takesIrq, hn, hq, hi]; rfl
  exact ⟨_, h.trans (performEntry_irq s), rfl, rfl, rfl⟩

/-- A dispatch that answers took the NMI, took the IRQ, or ran the fetched instruction. -/
theorem dispatch_cases (s t : State) (h : dispatch s = .next t) :
    (s.nmiPending = true
        ∧ t = { entered (addrOfBytes (s.osRom.read 0x3FFA) (s.osRom.read 0x3FFB)) s with nmiPending := false })
      ∨ (s.nmiPending = false ∧ s.irqPending = true ∧ s.flags.i = false
        ∧ t = { entered (addrOfBytes (s.osRom.read 0x3FFE) (s.osRom.read 0x3FFF)) s with irqPending := false })
      ∨ ∃ i, fetch s = .instr i ∧ exec i s = .next t := by
  simp only [dispatch] at h
  split at h
  · next hn => rw [performEntry_nmi] at h; cases h; exact .inl ⟨hn, rfl⟩
  · next hn =>
    split at h
    · next hi =>
      rw [performEntry_irq] at h
      cases h
      simp only [takesIrq, Bool.and_eq_true, Bool.not_eq_true'] at hi
      exact .inr (.inl ⟨hi.1.1, hi.1.2, hi.2, rfl⟩)
    · simp only [stepInstr] at h
      split at h
      · cases h
      · next i hf => exact .inr (.inr ⟨i, hf, h⟩)

/-- What every dispatch that answers keeps: all that `Frame` says but the latches, which it can only clear. -/
structure DispatchFrame (s t : State) : Prop where
  frame : Frame { s with irqPending := t.irqPending, nmiPending := t.nmiPending } t
  irq : t.irqPending = true → s.irqPending = true
  nmi : t.nmiPending = true → s.nmiPending = true

theorem entered_frame (target : Addr) (s : State) : Frame s (entered target s) := by
  have w : ∀ (m : Memory) (p v : Byte), m.wf 0x8000 = true → (m.write (0x0100 + p.toNat) v).wf 0x8000 = true :=
    fun m p v h => Memory.write_wf _ _ _ _ h (by have := p.isLt; omega)
  constructor <;> first | exact fun h => w _ _ _ (w _ _ _ (w _ _ _ h)) | exact fun h => h | rfl

theorem dispatch_frame (s t : State) (h : dispatch s = .next t) : DispatchFrame s t := by
  rcases dispatch_cases s t h with ⟨hn, rfl⟩ | ⟨_, hi, _, rfl⟩ | ⟨i, _, he⟩
  · have f := entered_frame (addrOfBytes (s.osRom.read 0x3FFA) (s.osRom.read 0x3FFB)) s
    exact ⟨{ f with irqPending := rfl, nmiPending := rfl }, fun h => f.irqPending ▸ h, fun _ => hn⟩
  · have f := entered_frame (addrOfBytes (s.osRom.read 0x3FFE) (s.osRom.read 0x3FFF)) s
    exact ⟨{ f with irqPending := rfl, nmiPending := rfl }, fun _ => hi, fun h => f.nmiPending ▸ h⟩
  · have f : Frame s t := by
      rcases exec_cases i s with ⟨u, hu, _, hf⟩ | ⟨u, hu, _⟩ | ⟨k, u, hu, _⟩ <;> rw [hu] at he <;> cases he
      exact hf
    exact ⟨{ f with irqPending := rfl, nmiPending := rfl }, fun h => f.irqPending ▸ h, fun h => f.nmiPending ▸ h⟩

/-- Opening a batch changes nothing else. -/
theorem openBatch_only (s : State) : openBatch s = { s with batch := (openBatch s).batch } := by
  unfold openBatch
  split <;> rfl

/-- The batch that is open after opening one. -/
theorem openBatch_batch (s : State) :
    ∃ b, (openBatch s).batch = some b
      ∧ (s.batch = some b ∨ (s.batch = none ∧ b = { budget := nextBudget s, used := 0 })) := by
  unfold openBatch
  split
  · next b hb => exact ⟨b, hb, .inl hb⟩
  · next hb => exact ⟨_, rfl, .inr ⟨hb, rfl⟩⟩

/-- The end of a batch changes the VIAs, the TimerManager, the frame timer, the key flag, the latches and the batch. -/
theorem batchEnd_only (n : Nat) (s : State) :
    batchEnd n s = { s with
      systemVia := (batchEnd n s).systemVia, userVia := (batchEnd n s).userVia, remainder := (batchEnd n s).remainder
      frameRemaining := (batchEnd n s).frameRemaining, repaintRequests := (batchEnd n s).repaintRequests
      keyPending := false, irqPending := (batchEnd n s).irqPending, nmiPending := (batchEnd n s).nmiPending
      batch := none } := by
  have h := (cpuTick_frame n s).1.only
  simp only [batchEnd]
  rw [h]

/-- A step that answers is the stop by cancel, or one dispatch in a batch `b` followed by its accounting. -/
theorem step_cases (s t : State) (h : step s = .next t) :
    (s.run = .running ∧ s.batch = none ∧ s.cancelRequested = true ∧ t = { s with run := .stoppedCancel })
      ∨ (s.run = .running ∧ ∃ u b, dispatch (openBatch s) = .next u ∧ u.batch = some b
        ∧ (s.batch = some b ∨ (s.batch = none ∧ b = { budget := nextBudget s, used := 0 }))
        ∧ ((b.budget ≤ b.used + (u.cycleCount - s.cycleCount)
            ∧ t = batchEnd (b.used + (u.cycleCount - s.cycleCount)) u)
          ∨ (b.used + (u.cycleCount - s.cycleCount) < b.budget
            ∧ t = { u with batch := some { b with used := b.used + (u.cycleCount - s.cycleCount) } }))) := by
  simp only [step, runLoopTurn] at h
  split at h
  · next hr =>
    split at h
    · next hc =>
      cases h
      simp only [cancels, Bool.and_eq_true, Option.isNone_iff_eq_none] at hc
      exact .inl ⟨hr, hc.1, hc.2, rfl⟩
    · simp only [dispatchInBatch] at h
      split at h
      · next u hu =>
        cases h
        have hb := (dispatch_frame _ _ hu).frame.batch
        have hcc : (openBatch s).cycleCount = s.cycleCount := by rw [openBatch_only]
        obtain ⟨b, hb1, hb2⟩ := openBatch_batch s
        refine .inr ⟨hr, u, b, hu, hb.trans hb1, hb2, ?_⟩
        simp only [account, hb.trans hb1, hcc]
        split
        · next h => exact .inl ⟨h, rfl⟩
        · next h => exact .inr ⟨by omega, rfl⟩
      · cases h
      · cases h
  · cases h
  · cases h

end Sys2Proof.Machine
end

