-- ==== Sys2Proof/Tests/Slice0.lean ====
section
/-! SUPPORT. The model's own tests: ill-formed terms refused, every row of the opcode table decoded from its word, single
steps with the end states of the spec's examples and of 95_test_vectors.md, and a witness for the hypotheses of every
statement. -/

namespace Sys2Proof.Tests

open Sys2Proof Sys2Proof.Machine

/-! ## Well-formedness -/

theorem test_wf_refuses_no_batch_cycles : Config.wellFormed { Config.default with defaultBatchCycles := 0 } = false := by
  decide

theorem test_wf_accepts_default_config : Config.default.wellFormed = true := by decide

theorem test_wf_refuses_short_image : imageWellFormed 16384 [0xA9, 0x08] = false := by decide

theorem test_wf_refuses_long_image : imageWellFormed 1 [0xA9, 0x08] = false := by decide

theorem test_wf_accepts_image : imageWellFormed 2 [0xA9, 0x08] = true := by decide

theorem test_wf_refuses_two_images_of_one_bank : bankKeysWellFormed [((0x0F : Byte), 1), (0x01, 2), (0x0F, 3)] = false := by
  decide

theorem test_wf_refuses_blank_cell : Memory.wf 0x8000 [(0x10, 0x00)] = false := by decide

theorem test_wf_refuses_unsorted_cells : Memory.wf 0x8000 [(0x11, 0x01), (0x10, 0x02)] = false := by decide

theorem test_wf_refuses_cell_outside : Memory.wf 0x8000 [(0x8000, 0x01)] = false := by decide

/-- Every instruction is well formed: R122 leaves no operand value out. -/
theorem test_wf_instr : (Instr.ldaImm 0xFF).wellFormed = true ∧ (Instr.jmpInd 0xFFFF).wellFormed = true := by decide

/-! ## Decoding: every row of spec/opcode_table.json, its opcode byte and operand bytes written out -/

theorem test_decode_loads :
    decode [0xA1, 0x34] = .instr (.ldaIzx 0x34) []
      ∧ decode [0xA5, 0x34] = .instr (.ldaZp 0x34) []
      ∧ decode [0xA9, 0x34] = .instr (.ldaImm 0x34) []
      ∧ decode [0xAD, 0x34, 0x12] = .instr (.ldaAbs 0x1234) []
      ∧ decode [0xB1, 0x34] = .instr (.ldaIzy 0x34) []
      ∧ decode [0xB5, 0x34] = .instr (.ldaZpx 0x34) []
      ∧ decode [0xB9, 0x34, 0x12] = .instr (.ldaAby 0x1234) []
      ∧ decode [0xBD, 0x34, 0x12] = .instr (.ldaAbx 0x1234) []
      ∧ decode [0xA2, 0x34] = .instr (.ldxImm 0x34) []
      ∧ decode [0xA6, 0x34] = .instr (.ldxZp 0x34) []
      ∧ decode [0xAE, 0x34, 0x12] = .instr (.ldxAbs 0x1234) []
      ∧ decode [0xB6, 0x34] = .instr (.ldxZpy 0x34) []
      ∧ decode [0xBE, 0x34, 0x12] = .instr (.ldxAby 0x1234) []
      ∧ decode [0xA0, 0x34] = .instr (.ldyImm 0x34) []
      ∧ decode [0xA4, 0x34] = .instr (.ldyZp 0x34) []
      ∧ decode [0xAC, 0x34, 0x12] = .instr (.ldyAbs 0x1234) []
      ∧ decode [0xB4, 0x34] = .instr (.ldyZpx 0x34) []
      ∧ decode [0xBC, 0x34, 0x12] = .instr (.ldyAbx 0x1234) [] := by
  decide

theorem test_decode_stores :
    decode [0x81, 0x34] = .instr (.staIzx 0x34) []
      ∧ decode [0x85, 0x34] = .instr (.staZp 0x34) []
      ∧ decode [0x8D, 0x34, 0x12] = .instr (.staAbs 0x1234) []
      ∧ decode [0x91, 0x34] = .instr (.staIzy 0x34) []
      ∧ decode [0x95, 0x34] = .instr (.staZpx 0x34) []
      ∧ decode [0x99, 0x34, 0x12] = .instr (.staAby 0x1234) []
      ∧ decode [0x9D, 0x34, 0x12] = .instr (.staAbx 0x1234) []
      ∧ decode [0x86, 0x34] = .instr (.stxZp 0x34) []
      ∧ decode [0x8E, 0x34, 0x12] = .instr (.stxAbs 0x1234) []
      ∧ decode [0x96, 0x34] = .instr (.stxZpy 0x34) []
      ∧ decode [0x84, 0x34] = .instr (.styZp 0x34) []
      ∧ decode [0x8C, 0x34, 0x12] = .instr (.styAbs 0x1234) []
      ∧ decode [0x94, 0x34] = .instr (.styZpx 0x34) [] := by
  decide

theorem test_decode_transfers :
    decode [0xAA] = .instr .tax []
      ∧ decode [0xA8] = .instr .tay []
      ∧ decode [0x8A] = .instr .txa []
      ∧ decode [0x98] = .instr .tya []
      ∧ decode [0xBA] = .instr .tsx []
      ∧ decode [0x9A] = .instr .txs [] := by
  decide

theorem test_decode_add_subtract :
    decode [0x61, 0x34] = .instr (.adcIzx 0x34) []
      ∧ decode [0x65, 0x34] = .instr (.adcZp 0x34) []
      ∧ decode [0x69, 0x34] = .instr (.adcImm 0x34) []
      ∧ decode [0x6D, 0x34, 0x12] = .instr (.adcAbs 0x1234) []
      ∧ decode [0x71, 0x34] = .instr (.adcIzy 0x34) []
      ∧ decode [0x75, 0x34] = .instr (.adcZpx 0x34) []
      ∧ decode [0x79, 0x34, 0x12] = .instr (.adcAby 0x1234) []
      ∧ decode [0x7D, 0x34, 0x12] = .instr (.adcAbx 0x1234) []
      ∧ decode [0xE1, 0x34] = .instr (.sbcIzx 0x34) []
      ∧ decode [0xE5, 0x34] = .instr (.sbcZp 0x34) []
      ∧ decode [0xE9, 0x34] = .instr (.sbcImm 0x34) []
      ∧ decode [0xED, 0x34, 0x12] = .instr (.sbcAbs 0x1234) []
      ∧ decode [0xF1, 0x34] = .instr (.sbcIzy 0x34) []
      ∧ decode [0xF5, 0x34] = .instr (.sbcZpx 0x34) []
      ∧ decode [0xF9, 0x34, 0x12] = .instr (.sbcAby 0x1234) []
      ∧ decode [0xFD, 0x34, 0x12] = .instr (.sbcAbx 0x1234) [] := by
  decide

theorem test_decode_logic :
    decode [0x21, 0x34] = .instr (.andIzx 0x34) []
      ∧ decode [0x25, 0x34] = .instr (.andZp 0x34) []
      ∧ decode [0x29, 0x34] = .instr (.andImm 0x34) []
      ∧ decode [0x2D, 0x34, 0x12] = .instr (.andAbs 0x1234) []
      ∧ decode [0x31, 0x34] = .instr (.andIzy 0x34) []
      ∧ decode [0x35, 0x34] = .instr (.andZpx 0x34) []
      ∧ decode [0x39, 0x34, 0x12] = .instr (.andAby 0x1234) []
      ∧ decode [0x3D, 0x34, 0x12] = .instr (.andAbx 0x1234) []
      ∧ decode [0x01, 0x34] = .instr (.oraIzx 0x34) []
      ∧ decode [0x05, 0x34] = .instr (.oraZp 0x34) []
      ∧ decode [0x09, 0x34] = .instr (.oraImm 0x34) []
      ∧ decode [0x0D, 0x34, 0x12] = .instr (.oraAbs 0x1234) []
      ∧ decode [0x11, 0x34] = .instr (.oraIzy 0x34) []
      ∧ decode [0x15, 0x34] = .instr (.oraZpx 0x34) []
      ∧ decode [0x19, 0x34, 0x12] = .instr (.oraAby 0x1234) []
      ∧ decode [0x1D, 0x34, 0x12] = .instr (.oraAbx 0x1234) []
      ∧ decode [0x41, 0x34] = .instr (.eorIzx 0x34) []
      ∧ decode [0x45, 0x34] = .instr (.eorZp 0x34) []
      ∧ decode [0x49, 0x34] = .instr (.eorImm 0x34) []
      ∧ decode [0x4D, 0x34, 0x12] = .instr (.eorAbs 0x1234) []
      ∧ decode [0x51, 0x34] = .instr (.eorIzy 0x34) []
      ∧ decode [0x55, 0x34] = .instr (.eorZpx 0x34) []
      ∧ decode [0x59, 0x34, 0x12] = .instr (.eorAby 0x1234) []
      ∧ decode [0x5D, 0x34, 0x12] = .instr (.eorAbx 0x1234) [] := by
  decide

theorem test_decode_compares_and_bit :
    decode [0xC1, 0x34] = .instr (.cmpIzx 0x34) []
      ∧ decode [0xC5, 0x34] = .instr (.cmpZp 0x34) []
      ∧ decode [0xC9, 0x34] = .instr (.cmpImm 0x34) []
      ∧ decode [0xCD, 0x34, 0x12] = .instr (.cmpAbs 0x1234) []
      ∧ decode [0xD1, 0x34] = .instr (.cmpIzy 0x34) []
      ∧ decode [0xD5, 0x34] = .instr (.cmpZpx 0x34) []
      ∧ decode [0xD9, 0x34, 0x12] = .instr (.cmpAby 0x1234) []
      ∧ decode [0xDD, 0x34, 0x12] = .instr (.cmpAbx 0x1234) []
      ∧ decode [0xE0, 0x34] = .instr (.cpxImm 0x34) []
      ∧ decode [0xE4, 0x34] = .instr (.cpxZp 0x34) []
      ∧ decode [0xEC, 0x34, 0x12] = .instr (.cpxAbs 0x1234) []
      ∧ decode [0xC0, 0x34] = .instr (.cpyImm 0x34) []
      ∧ decode [0xC4, 0x34] = .instr (.cpyZp 0x34) []
      ∧ decode [0xCC, 0x34, 0x12] = .instr (.cpyAbs 0x1234) []
      ∧ decode [0x24, 0x34] = .instr (.bitZp 0x34) []
      ∧ decode [0x2C, 0x34, 0x12] = .instr (.bitAbs 0x1234) [] := by
  decide

theorem test_decode_increments :
    decode [0xE6, 0x34] = .instr (.incZp 0x34) []
      ∧ decode [0xEE, 0x34, 0x12] = .instr (.incAbs 0x1234) []
      ∧ decode [0xF6, 0x34] = .instr (.incZpx 0x34) []
      ∧ decode [0xFE, 0x34, 0x12] = .instr (.incAbx 0x1234) []
      ∧ decode [0xC6, 0x34] = .instr (.decZp 0x34) []
      ∧ decode [0xCE, 0x34, 0x12] = .instr (.decAbs 0x1234) []
      ∧ decode [0xD6, 0x34] = .instr (.decZpx 0x34) []
      ∧ decode [0xDE, 0x34, 0x12] = .instr (.decAbx 0x1234) []
      ∧ decode [0xE8] = .instr .inx []
      ∧ decode [0xC8] = .instr .iny []
      ∧ decode [0xCA] = .instr .dex []
      ∧ decode [0x88] = .instr .dey [] := by
  decide

theorem test_decode_shifts :
    decode [0x06, 0x34] = .instr (.aslZp 0x34) []
      ∧ decode [0x0A] = .instr .aslAcc []
      ∧ decode [0x0E, 0x34, 0x12] = .instr (.aslAbs 0x1234) []
      ∧ decode [0x16, 0x34] = .instr (.aslZpx 0x34) []
      ∧ decode [0x1E, 0x34, 0x12] = .instr (.aslAbx 0x1234) []
      ∧ decode [0x46, 0x34] = .instr (.lsrZp 0x34) []
      ∧ decode [0x4A] = .instr .lsrAcc []
      ∧ decode [0x4E, 0x34, 0x12] = .instr (.lsrAbs 0x1234) []
      ∧ decode [0x56, 0x34] = .instr (.lsrZpx 0x34) []
      ∧ decode [0x5E, 0x34, 0x12] = .instr (.lsrAbx 0x1234) []
      ∧ decode [0x26, 0x34] = .instr (.rolZp 0x34) []
      ∧ decode [0x2A] = .instr .rolAcc []
      ∧ decode [0x2E, 0x34, 0x12] = .instr (.rolAbs 0x1234) []
      ∧ decode [0x36, 0x34] = .instr (.rolZpx 0x34) []
      ∧ decode [0x3E, 0x34, 0x12] = .instr (.rolAbx 0x1234) []
      ∧ decode [0x66, 0x34] = .instr (.rorZp 0x34) []
      ∧ decode [0x6A] = .instr .rorAcc []
      ∧ decode [0x6E, 0x34, 0x12] = .instr (.rorAbs 0x1234) []
      ∧ decode [0x76, 0x34] = .instr (.rorZpx 0x34) []
      ∧ decode [0x7E, 0x34, 0x12] = .instr (.rorAbx 0x1234) [] := by
  decide

theorem test_decode_branches :
    decode [0x90, 0x34] = .instr (.bccRel 0x34) []
      ∧ decode [0xB0, 0x34] = .instr (.bcsRel 0x34) []
      ∧ decode [0xF0, 0x34] = .instr (.beqRel 0x34) []
      ∧ decode [0xD0, 0x34] = .instr (.bneRel 0x34) []
      ∧ decode [0x30, 0x34] = .instr (.bmiRel 0x34) []
      ∧ decode [0x10, 0x34] = .instr (.bplRel 0x34) []
      ∧ decode [0x50, 0x34] = .instr (.bvcRel 0x34) []
      ∧ decode [0x70, 0x34] = .instr (.bvsRel 0x34) [] := by
  decide

theorem test_decode_jumps :
    decode [0x4C, 0x34, 0x12] = .instr (.jmpAbs 0x1234) []
      ∧ decode [0x6C, 0x34, 0x12] = .instr (.jmpInd 0x1234) []
      ∧ decode [0x20, 0x34, 0x12] = .instr (.jsrAbs 0x1234) []
      ∧ decode [0x60] = .instr .rts [] := by
  decide

theorem test_decode_stack :
    decode [0x48] = .instr .pha []
      ∧ decode [0x08] = .instr .php []
      ∧ decode [0x68] = .instr .pla []
      ∧ decode [0x28] = .instr .plp [] := by
  decide

theorem test_decode_flags_and_nop :
    decode [0x18] = .instr .clc []
      ∧ decode [0x38] = .instr .sec []
      ∧ decode [0x58] = .instr .cli []
      ∧ decode [0x78] = .instr .sei []
      ∧ decode [0xD8] = .instr .cld []
      ∧ decode [0xF8] = .instr .sed []
      ∧ decode [0xB8] = .instr .clv []
      ∧ decode [0xEA] = .instr .nop [] := by
  decide

theorem test_decode_system :
    decode [0x00] = .instr .brk []
      ∧ decode [0x40] = .instr .rti [] := by
  decide

/-- Operand bytes short of the length are no instruction. -/
theorem test_decode_truncated : decode [0xA9] = .truncated ∧ decode [0x4C, 0x34] = .truncated ∧ decode [] = .truncated := by
  decide

/-- Opcode-table words: the second byte is bits 15..8, the third bits 23..16; bits above nbits are 0. -/
theorem test_decode_table_word :
    decodeTableWord 24 0x1234AD = some (.ldaAbs 0x1234) ∧ decodeTableWord 8 0xAD = some (.ldaAbs 0)
      ∧ decodeTableWord 8 0x34A9 = some (.ldaImm 0) ∧ decodeTableWord 8 0x02 = none := by
  decide

/-- The first step after reset runs the placed instruction. -/
theorem test_with_fetch_word :
    fetch (State.reset.withFetchWord 16 0x08A9) = .instr (.ldaImm 0x08)
      ∧ fetch (State.reset.withFetchWord 24 0x1234AD) = .instr (.ldaAbs 0x1234) := by
  decide

/-! ## Single steps -/

/-- The default start state of 95_test_vectors.md. -/
def start : State :=
  { State.reset with
    pc := 0x0300, sp := 0xFF
    flags := { c := false, z := false, i := false, d := false, b := false, v := false, n := false } }

/-- The default start state under strict mode. -/
def strict : State := { start with cfg := { start.cfg with strictIgnored := true } }

/-- The state after one step with the bytes placed at PC. -/
def ran (s : State) (bytes : List Byte) : Option State :=
  match step (loadBytes s s.pc bytes) with
  | .next t => some t
  | .fault _ => none
  | .refused _ => none

/-- The fault of one step with the bytes placed at PC, and the state it leaves. -/
def fails (s : State) (bytes : List Byte) : Option (FaultKind × State) :=
  match step (loadBytes s s.pc bytes) with
  | .fault (.raised r t) => some (r.kind, t)
  | .fault (.alreadyStopped _) => none
  | .next _ => none
  | .refused _ => none

/-! The expected values are those of 95_test_vectors.md §2, or of the Example line of the rule the name cites. -/

theorem test_lda_imm_zero :
    (ran { start with a := 0x55 } [0xA9, 0x00]).map (fun t => (t.a, t.flags.z, t.flags.n, t.pc, t.cycleCount))
      = some (0x00, true, false, 0x0302, 2) := by decide

theorem test_lda_imm_negative :
    (ran start [0xA9, 0x80]).map (fun t => (t.a, t.flags.n, t.flags.z, t.pc))
      = some (0x80, true, false, 0x0302) := by decide

theorem test_lda_zpx_wraps :
    (ran { start with x := 0x20, ram := [(0x10, 0x7F)] } [0xB5, 0xF0]).map (fun t => (t.a, t.pc, t.cycleCount))
      = some (0x7F, 0x0302, 4) := by decide

theorem test_lda_abx_page_cross :
    (ran { start with x := 0x01, ram := [(0x1300, 0x01)] } [0xBD, 0xFF, 0x12]).map (fun t =>
      (t.a, t.pc, t.cycleCount))
      = some (0x01, 0x0303, 4) := by decide

theorem test_lda_abx_beyond :
    (fails { start with x := 0x01 } [0xBD, 0xFF, 0xFF]).map (fun r => (r.1, r.2.pc, r.2.cycleCount))
      = some (.outOfRange 0x10000 none, 0x0300, 0) := by decide

theorem test_lda_izx_pointer_wraps :
    (ran { start with x := 0x01, ram := [(0x0000, 0x12), (0x00FF, 0x34), (0x1234, 0x99)] } [0xA1, 0xFE]).map (fun t =>
      (t.a, t.flags.n, t.pc, t.cycleCount))
      = some (0x99, true, 0x0302, 6) := by decide

theorem test_lda_izy_pointer_wraps :
    (ran { start with y := 0x02, ram := [(0x0000, 0x20), (0x2002, 0xAB)] } [0xB1, 0xFF]).map (fun t =>
      (t.a, t.flags.n, t.pc, t.cycleCount))
      = some (0xAB, true, 0x0302, 5) := by decide

theorem test_lda_abs_ier :
    (ran start [0xAD, 0x4E, 0xFE]).map (fun t => (t.a, t.flags.n, t.pc, t.cycleCount))
      = some (0x80, true, 0x0303, 4) := by decide

theorem test_lda_abs_tube_ignored :
    (ran { start with a := 0x55, osRom := [(0x3EE0, 0x5C)] } [0xAD, 0xE0, 0xFE]).map (fun t => (t.a, t.flags.z))
      = some (0x00, true) := by decide

/-- Absolute,Y (R111) through the paged window (R70). -/
theorem test_lda_aby_bank :
    (ran { start with y := 0x01, banks := [(0x0F, [(0x0001, 0x11)])] } [0xB9, 0x00, 0x80]).map (fun t =>
      (t.a, t.pc, t.cycleCount))
      = some (0x11, 0x0303, 4) := by decide

theorem test_lda_zp :
    (ran { start with ram := [(0x10, 0x42)] } [0xA5, 0x10]).map (fun t => (t.a, t.flags.z, t.cycleCount))
      = some (0x42, false, 3) := by decide

theorem test_ldx_imm :
    (ran start [0xA2, 0x80]).map (fun t => (t.x, t.flags.n, t.flags.z, t.pc, t.cycleCount))
      = some (0x80, true, false, 0x0302, 2) := by decide

theorem test_ldx_zpy_wraps :
    (ran { start with y := 0xF5, x := 0x33 } [0xB6, 0x10]).map (fun t => (t.x, t.flags.z, t.pc, t.cycleCount))
      = some (0x00, true, 0x0302, 4) := by decide

theorem test_ldy_imm :
    (ran start [0xA0, 0xFF]).map (fun t => (t.y, t.flags.n, t.pc, t.cycleCount))
      = some (0xFF, true, 0x0302, 2) := by decide

theorem test_ldy_imm_zero :
    (ran { start with y := 0x01 } [0xA0, 0x00]).map (fun t => (t.y, t.flags.z, t.flags.n))
      = some (0x00, true, false) := by decide

theorem test_sta_zp :
    (ran { start with a := 0x08, flags := { start.flags with c := true } } [0x85, 0x05]).map (fun t =>
      (t.ram.read 0x05, t.flags.c, t.pc, t.cycleCount))
      = some ((0x08 : Byte), true, 0x0302, 3) := by decide

theorem test_sta_abs_ignored :
    (ran { start with a := 0x12 } [0x8D, 0x08, 0xFE]).map (fun t => (t.ram, t.selectedBank, t.pc, t.cycleCount))
      = some ([(0x300, 0x8D), (0x301, 0x08), (0x302, 0xFE)], 0x0F, 0x0303, 4) := by decide

theorem test_sta_abs_ignored_strict :
    (fails { strict with a := 0x12 } [0x8D, 0x08, 0xFE]).map (fun r => r.1) = some (.ignoredHardwareAccess 0xFE08 (.write 0x12)) := by
  decide

theorem test_sta_abs_os_rom :
    (fails { start with a := 0x12 } [0x8D, 0x00, 0xC0]).map (fun r => r.1) = some (.readOnlyViolation .osRom 0xC000 0x12) := by
  decide

/-- Indexed indirect (R113). -/
theorem test_sta_izx :
    (ran { start with a := 0x5A, x := 0x04, ram := [(0x24, 0x00), (0x25, 0x20)] } [0x81, 0x20]).map (fun t =>
      (t.ram.read 0x2000, t.cycleCount))
      = some ((0x5A : Byte), 6) := by decide

/-- Indirect indexed across a page (R114). -/
theorem test_sta_izy :
    (ran { start with a := 0x5A, y := 0x01, ram := [(0x20, 0xFF), (0x21, 0x10)] } [0x91, 0x20]).map (fun t =>
      (t.ram.read 0x1100, t.cycleCount))
      = some ((0x5A : Byte), 6) := by decide

theorem test_stx_zp :
    (ran { start with x := 0x7F } [0x86, 0x10]).map (fun t => (t.ram.read 0x10, t.pc, t.cycleCount))
      = some ((0x7F : Byte), 0x0302, 3) := by decide

theorem test_stx_zpy_wraps :
    (ran { start with x := 0x77, y := 0x02 } [0x96, 0xFF]).map (fun t => (t.ram.read 0x0001, t.pc, t.cycleCount))
      = some ((0x77 : Byte), 0x0302, 4) := by decide

theorem test_sty_abs_bank_select :
    (ran { start with y := 0x01 } [0x8C, 0x30, 0xFE]).map (fun t => (t.selectedBank, t.pc, t.cycleCount))
      = some (0x01, 0x0303, 4) := by decide

theorem test_sty_abs_paged_rom :
    (fails start [0x8C, 0x00, 0x80]).map (fun r => r.1) = some (.readOnlyViolation (.pagedRom 0x0F) 0x8000 0x00) := by
  decide

theorem test_tax :
    (ran { start with a := 0x00, x := 0x33 } [0xAA]).map (fun t => (t.x, t.flags.z, t.pc, t.cycleCount))
      = some (0x00, true, 0x0301, 2) := by decide

theorem test_tay :
    (ran { start with a := 0x00, y := 0x33 } [0xA8]).map (fun t => (t.y, t.flags.z, t.flags.n))
      = some (0x00, true, false) := by decide

theorem test_txa :
    (ran { start with x := 0x42 } [0x8A]).map (fun t => (t.a, t.flags.z, t.flags.n))
      = some (0x42, false, false) := by decide

theorem test_tya :
    (ran { start with y := 0x90 } [0x98]).map (fun t => (t.a, t.flags.n, t.pc, t.cycleCount))
      = some (0x90, true, 0x0301, 2) := by decide

theorem test_tsx :
    (ran { start with sp := 0x80 } [0xBA]).map (fun t => (t.x, t.flags.n, t.pc, t.cycleCount))
      = some (0x80, true, 0x0301, 2) := by decide

theorem test_txs :
    (ran { start with x := 0x00 } [0x9A]).map (fun t => (t.sp, t.flags.z, t.pc, t.cycleCount))
      = some (0x00, false, 0x0301, 2) := by decide

theorem test_adc_overflow :
    (ran { start with a := 0x50 } [0x69, 0x50]).map (fun t =>
      (t.a, t.flags.n, t.flags.v, t.flags.c, t.pc, t.cycleCount))
      = some (0xA0, true, true, false, 0x0302, 2) := by decide

theorem test_adc_carry :
    (ran { start with a := 0x01, flags := { start.flags with c := true } } [0x69, 0xFF]).map (fun t =>
      (t.a, t.flags.c, t.flags.z, t.flags.v))
      = some (0x01, true, false, false) := by decide

theorem test_adc_decimal :
    (ran { start with a := 0x99, flags := { start.flags with d := true } } [0x69, 0x01]).map (fun t =>
      (t.a, t.flags.c, t.flags.z, t.flags.n, t.flags.v))
      = some (0x00, true, false, true, false) := by decide

theorem test_adc_decimal_invalid :
    (ran { start with a := 0x0F, flags := { start.flags with d := true } } [0x69, 0x0F]).map (fun t =>
      (t.a, t.flags.c))
      = some (0x14, false) := by decide

theorem test_sbc_borrow :
    (ran { start with a := 0x00, flags := { start.flags with c := true } } [0xE9, 0x01]).map (fun t =>
      (t.a, t.flags.n, t.flags.c))
      = some (0xFF, true, false) := by decide

theorem test_sbc_overflow :
    (ran { start with a := 0x80, flags := { start.flags with c := true } } [0xE9, 0x7F]).map (fun t =>
      (t.a, t.flags.v, t.flags.c, t.flags.n))
      = some (0x01, true, true, false) := by decide

theorem test_sbc_decimal :
    (ran { start with a := 0x10, flags := { start.flags with c := true, d := true } } [0xE9, 0x01]).map (fun t =>
      (t.a, t.flags.c))
      = some (0x09, true) := by decide

theorem test_sbc_decimal_borrow :
    (ran { start with a := 0x00, flags := { start.flags with c := true, d := true } } [0xE9, 0x01]).map (fun t =>
      (t.a, t.flags.c, t.flags.n))
      = some (0x99, false, true) := by decide

theorem test_and :
    (ran { start with a := 0xF0 } [0x29, 0x3C]).map (fun t => (t.a, t.flags.z, t.flags.n))
      = some (0x30, false, false) := by decide

theorem test_and_to_zero :
    (ran { start with a := 0xF0 } [0x29, 0x0F]).map (fun t => (t.a, t.flags.z))
      = some (0x00, true) := by decide

theorem test_ora :
    (ran { start with a := 0x01 } [0x09, 0x80]).map (fun t => (t.a, t.flags.n, t.flags.z))
      = some (0x81, true, false) := by decide

theorem test_eor :
    (ran { start with a := 0xFF } [0x49, 0x0F]).map (fun t => (t.a, t.flags.n))
      = some (0xF0, true) := by decide

theorem test_eor_self :
    (ran { start with a := 0xFF } [0x49, 0xFF]).map (fun t => (t.a, t.flags.z))
      = some (0x00, true) := by decide

theorem test_cmp_equal :
    (ran { start with a := 0x01 } [0xC9, 0x01]).map (fun t => (t.flags.z, t.flags.c, t.flags.n, t.pc, t.cycleCount))
      = some (true, true, false, 0x0302, 2) := by decide

/-- Outside the document's domain N is false (90_conflicts.md C3). -/
theorem test_cmp_far :
    (ran { start with a := 0x00, flags := { start.flags with c := true } } [0xC9, 0xFF]).map (fun t =>
      (t.flags.n, t.flags.c, t.flags.z, t.a))
      = some (false, false, false, 0x00) := by decide

theorem test_cpx :
    (ran { start with x := 0x10, flags := { start.flags with c := true } } [0xE0, 0x20]).map (fun t =>
      (t.flags.c, t.flags.z, t.flags.n))
      = some (false, false, true) := by decide

theorem test_cpy_imm :
    (ran { start with y := 0x30 } [0xC0, 0x20]).map (fun t => (t.flags.c, t.flags.z, t.flags.n))
      = some (true, false, false) := by decide

theorem test_cpy_zp :
    (ran { start with y := 0x05, ram := [(0x10, 0x05)] } [0xC4, 0x10]).map (fun t =>
      (t.flags.z, t.flags.c, t.cycleCount))
      = some (true, true, 3) := by decide

theorem test_bit_from_memory :
    (ran { start with a := 0x01, ram := [(0x10, 0xC0)] } [0x24, 0x10]).map (fun t =>
      (t.flags.n, t.flags.v, t.flags.z, t.a, t.cycleCount))
      = some (true, true, true, 0x01, 3) := by decide

theorem test_bit_nonzero :
    (ran { start with a := 0x41, ram := [(0x10, 0x41)] } [0x24, 0x10]).map (fun t =>
      (t.flags.v, t.flags.z, t.flags.n))
      = some (true, false, false) := by decide

theorem test_inc_wraps :
    (ran { start with ram := [(0x10, 0xFF)], flags := { start.flags with c := true } } [0xE6, 0x10]).map (fun t =>
      (t.ram.read 0x10, t.flags.z, t.flags.c, t.cycleCount))
      = some ((0x00 : Byte), true, true, 5) := by decide

theorem test_inc_rom :
    (fails start [0xEE, 0x00, 0xC0]).map (fun r => (r.1, r.2.flags, r.2.pc))
      = some (.readOnlyViolation .osRom 0xC000 0x01, start.flags, 0x0300) := by decide

theorem test_dec_wraps :
    (ran start [0xC6, 0x10]).map (fun t => (t.ram.read 0x10, t.flags.n, t.cycleCount))
      = some ((0xFF : Byte), true, 5) := by decide

theorem test_inx :
    (ran { start with x := 0x7F } [0xE8]).map (fun t => (t.x, t.flags.n))
      = some (0x80, true) := by decide

theorem test_iny :
    (ran { start with y := 0xFF } [0xC8]).map (fun t => (t.y, t.flags.z, t.flags.n))
      = some (0x00, true, false) := by decide

theorem test_dex :
    (ran { start with x := 0x01 } [0xCA]).map (fun t => (t.x, t.flags.z))
      = some (0x00, true) := by decide

theorem test_dey :
    (ran { start with y := 0x80 } [0x88]).map (fun t => (t.y, t.flags.n, t.flags.z))
      = some (0x7F, false, false) := by decide

theorem test_asl_acc :
    (ran { start with a := 0x81 } [0x0A]).map (fun t => (t.a, t.flags.c, t.flags.z, t.flags.n, t.pc, t.cycleCount))
      = some (0x02, true, false, false, 0x0301, 2) := by decide

theorem test_asl_to_zero :
    (ran { start with a := 0x80 } [0x0A]).map (fun t => (t.a, t.flags.c, t.flags.z))
      = some (0x00, true, true) := by decide

theorem test_lsr_zp :
    (ran { start with ram := [(0x20, 0x03)] } [0x46, 0x20]).map (fun t =>
      (t.ram.read 0x20, t.flags.c, t.flags.z, t.flags.n, t.pc, t.cycleCount))
      = some ((0x01 : Byte), true, false, false, 0x0302, 5) := by decide

theorem test_rol_acc :
    (ran { start with a := 0x40, flags := { start.flags with c := true } } [0x2A]).map (fun t =>
      (t.a, t.flags.c, t.flags.n))
      = some (0x81, false, true) := by decide

theorem test_rol_zpx :
    (ran { start with x := 0x01, ram := [(0x11, 0x40)], flags := { start.flags with c := true } } [0x36, 0x10]).map (fun t =>
      (t.ram.read 0x11, t.flags.n, t.flags.c, t.cycleCount))
      = some ((0x81 : Byte), true, false, 6) := by decide

theorem test_ror_acc :
    (ran { start with a := 0x02, flags := { start.flags with c := true } } [0x6A]).map (fun t =>
      (t.a, t.flags.c, t.flags.n))
      = some (0x81, false, true) := by decide

theorem test_ror_carry_in :
    (ran { start with a := 0x00, flags := { start.flags with c := true } } [0x6A]).map (fun t =>
      (t.a, t.flags.n, t.flags.c))
      = some (0x80, true, false) := by decide

theorem test_bcc_taken : (ran start [0x90, 0x10]).map (fun t => (t.pc, t.cycleCount)) = some (0x0312, 3) := by decide

theorem test_bcc_to_itself :
    (ran start [0x90, 0xFE]).map (fun t => (t.pc, t.cycleCount))
      = some (0x0300, 3) := by decide

theorem test_bcs_not_taken :
    (ran start [0xB0, 0x10]).map (fun t => (t.pc, t.cycleCount))
      = some (0x0302, 2) := by decide

theorem test_beq_page_cross :
    (ran { start with pc := 0x03F0, flags := { start.flags with z := true } } [0xF0, 0x20]).map (fun t =>
      (t.pc, t.cycleCount))
      = some (0x0412, 4) := by decide

theorem test_beq_not_taken :
    (ran start [0xF0, 0x05]).map (fun t => (t.pc, t.cycleCount))
      = some (0x0302, 2) := by decide

theorem test_bne_backward :
    (ran { start with pc := 0x0306 } [0xD0, 0xFA]).map (fun t => (t.pc, t.cycleCount))
      = some (0x0302, 3) := by decide

theorem test_bne_page_cross :
    (ran start [0xD0, 0xF0]).map (fun t => (t.pc, t.cycleCount))
      = some (0x02F2, 4) := by decide

theorem test_bmi_far_back :
    (ran { start with pc := 0x0200, flags := { start.flags with n := true } } [0x30, 0x80]).map (fun t =>
      (t.pc, t.cycleCount))
      = some (0x0182, 4) := by decide

theorem test_bpl_far_forward :
    (ran { start with pc := 0x0200 } [0x10, 0x7F]).map (fun t => (t.pc, t.cycleCount))
      = some (0x0281, 3) := by decide

theorem test_bpl_below_zero :
    (fails { start with pc := 0x0010 } [0x10, 0x80]).map (fun r => r.1) = some (.outOfRange (-0x6E) none) := by decide

theorem test_bvc_not_taken :
    (ran { start with flags := { start.flags with v := true } } [0x50, 0x10]).map (fun t => (t.pc, t.cycleCount))
      = some (0x0302, 2) := by decide

theorem test_bvs_taken :
    (ran { start with pc := 0x0200, flags := { start.flags with v := true } } [0x70, 0x02]).map (fun t =>
      (t.pc, t.cycleCount))
      = some (0x0204, 3) := by decide

theorem test_bcc_to_itself_stuck :
    (fails { start with cfg := { start.cfg with detectSelfLoop := true } } [0x90, 0xFE]).map (fun r => r.1) = some (.stuckProgramCounter 0x0300) := by
  decide

theorem test_jmp_abs :
    (ran start [0x4C, 0x34, 0x12]).map (fun t => (t.pc, t.cycleCount))
      = some (0x1234, 3) := by decide

theorem test_jmp_ind_page_wrap :
    (ran { start with ram := [(0x1000, 0x20), (0x1100, 0x30)] } [0x6C, 0xFF, 0x10]).map (fun t =>
      (t.pc, t.cycleCount))
      = some (0x2000, 5) := by decide

theorem test_jsr :
    (ran { start with pc := 0x0400 } [0x20, 0x00, 0x05]).map (fun t =>
      (t.ram.read 0x01FF, t.ram.read 0x01FE, t.sp, t.pc, t.cycleCount))
      = some ((0x04 : Byte), (0x02 : Byte), 0xFD, 0x0500, 6) := by decide

/-- The operand is read before the pushes that overwrite it (R200, D57). -/
theorem test_jsr_operand_under_stack :
    (ran { start with pc := 0x01FD, sp := 0xFF } [0x20, 0x34, 0x12]).map (fun t =>
      (t.pc, t.ram.read 0x01FF, t.ram.read 0x01FE))
      = some (0x1234, (0x01 : Byte), (0xFF : Byte)) := by decide

theorem test_rts :
    (ran { start with sp := 0xFD, ram := [(0x01FE, 0xFF), (0x01FF, 0x04)] } [0x60]).map (fun t =>
      (t.pc, t.sp, t.cycleCount))
      = some (0x0500, 0xFF, 6) := by decide

theorem test_rts_of_ffff :
    (fails { start with sp := 0xFD, ram := [(0x01FE, 0xFF), (0x01FF, 0xFF)] } [0x60]).map (fun r => r.1) = some (.outOfRange 0x10000 none) := by
  decide

theorem test_pha :
    (ran { start with a := 0xAB } [0x48]).map (fun t => (t.ram.read 0x01FF, t.sp, t.cycleCount))
      = some ((0xAB : Byte), 0xFE, 3) := by decide

theorem test_pha_wraps :
    (ran { start with a := 0x01, sp := 0x00 } [0x48]).map (fun t => (t.ram.read 0x0100, t.sp))
      = some ((0x01 : Byte), 0xFF) := by decide

theorem test_php :
    (ran { start with flags := { start.flags with n := true, c := true } } [0x08]).map (fun t =>
      (t.ram.read 0x01FF, t.sp))
      = some ((0xB1 : Byte), 0xFE) := by decide

theorem test_php_zero_carry :
    (ran { start with flags := { start.flags with c := true, z := true } } [0x08]).map (fun t =>
      (t.ram.read 0x01FF, t.cycleCount))
      = some ((0x33 : Byte), 3) := by decide

theorem test_pla :
    (ran { start with sp := 0xFE, ram := [(0x01FF, 0x80)] } [0x68]).map (fun t =>
      (t.a, t.flags.n, t.sp, t.cycleCount))
      = some (0x80, true, 0xFF, 4) := by decide

theorem test_plp_keeps_b :
    (ran { start with sp := 0xFE, ram := [(0x01FF, 0x30)], flags := { start.flags with i := true } } [0x28]).map (fun t =>
      (t.flags, t.sp, t.cycleCount))
      = some (start.flags, 0xFF, 4) := by decide

theorem test_plp_all :
    (ran { start with sp := 0xFE, ram := [(0x01FF, 0xFF)] } [0x28]).map (fun t => t.flags)
      = some { c := true, z := true, i := true, d := true, b := false, v := true, n := true } := by decide

theorem test_clc :
    (ran { start with flags := { start.flags with c := true } } [0x18]).map (fun t => (t.flags.c, t.pc, t.cycleCount))
      = some (false, 0x0301, 2) := by decide

theorem test_sec :
    (ran start [0x38]).map (fun t => (t.flags.c, t.pc, t.cycleCount))
      = some (true, 0x0301, 2) := by decide

theorem test_cli :
    (ran { start with flags := { start.flags with i := true } } [0x58]).map (fun t => (t.flags.i, t.pc, t.cycleCount))
      = some (false, 0x0301, 2) := by decide

theorem test_sei :
    (ran start [0x78]).map (fun t => (t.flags.i, t.pc, t.cycleCount))
      = some (true, 0x0301, 2) := by decide

theorem test_cld :
    (ran { start with flags := { start.flags with d := true } } [0xD8]).map (fun t => (t.flags.d, t.pc, t.cycleCount))
      = some (false, 0x0301, 2) := by decide

theorem test_sed :
    (ran start [0xF8]).map (fun t => (t.flags.d, t.pc, t.cycleCount))
      = some (true, 0x0301, 2) := by decide

theorem test_clv :
    (ran { start with flags := { start.flags with v := true } } [0xB8]).map (fun t => (t.flags.v, t.pc, t.cycleCount))
      = some (false, 0x0301, 2) := by decide

theorem test_nop :
    (ran { start with pc := 0x0200 } [0xEA]).map (fun t => (t.pc, t.cycleCount))
      = some (0x0201, 2) := by decide

theorem test_nop_at_top :
    (fails { start with pc := 0xFFFF, osRom := [(0x3FFF, 0xEA)] } []).map (fun r => (r.1, r.2.pc, r.2.cycleCount))
      = some (.outOfRange 0x10000 none, 0xFFFF, 0) := by decide

theorem test_brk :
    (ran { start with pc := 0x0200, osRom := [(0x3FFE, 0x1C), (0x3FFF, 0xDC)] } [0x00, 0xEA]).map (fun t =>
      (t.ram, t.sp, t.flags.i, t.pc, t.cycleCount))
      = some ([(0x1FD, 0x30), (0x1FE, 0x02), (0x1FF, 0x02), (0x201, 0xEA)], 0xFC, true, 0xDC1C, 7) := by decide

theorem test_rti :
    (ran { start with sp := 0xFC, ram := [(0x01FD, 0xEF), (0x01FE, 0x34), (0x01FF, 0x12)] } [0x40]).map (fun t =>
      (t.flags, t.sp, t.pc, t.cycleCount))
      = some ({ c := true, z := true, i := true, d := true, b := false, v := true, n := true }, 0xFF, 0x1234, 6) := by
  decide

theorem test_illegal_opcode :
    (fails start [0x02]).map (fun r => (r.1, r.2.pc, r.2.cycleCount, r.2.run))
      = some (.illegalOpcode 0x02 0x0300, 0x0300, 0, .stoppedFault { kind := .illegalOpcode 0x02 0x0300, pc := 0x0300, opcode := some 0x02, cycleCount := 0 }) := by
  decide

theorem test_irq_entry :
    (ran { start with pc := 0x1234, irqPending := true, osRom := [(0x3FFF, 0xC0)], flags := { start.flags with n := true, c := true } } []).map (fun t =>
      (t.ram, t.sp, t.flags.i, t.pc, t.irqPending, t.cycleCount))
      = some ([(0x1FD, 0xA1), (0x1FE, 0x34), (0x1FF, 0x12)], 0xFC, true, 0xC000, false, 7) := by decide

theorem test_irq_masked :
    (ran { start with irqPending := true, flags := { start.flags with i := true } } [0xEA]).map (fun t =>
      (t.pc, t.irqPending))
      = some (0x0301, true) := by decide

theorem test_nmi_first :
    (ran { start with nmiPending := true, irqPending := true, osRom := [(0x3FFB, 0xC1)] } []).map (fun t =>
      (t.pc, t.flags.i, t.nmiPending, t.irqPending))
      = some (0xC100, true, false, true) := by decide

/-! The run loop, the VIA and the timers (95_test_vectors.md §2.6, §2.7, E5, E6, E7). -/

theorem test_first_budget : availableCpuTicks State.reset = some 40000 := by decide

theorem test_no_timers_budget : nextBudget { start with timers := [] } = start.cfg.defaultBatchCycles := by decide

theorem test_cpu_tick_remainder :
    (cpuTick 1 start).1.remainder = 1 ∧ (cpuTick 1 start).1.frameRemaining = 20000
      ∧ (cpuTick 1 (cpuTick 1 start).1).1.remainder = 0 ∧ (cpuTick 1 (cpuTick 1 start).1).1.frameRemaining = 19999
      ∧ (cpuTick 7 start).1.remainder = 1 ∧ (cpuTick 7 start).1.frameRemaining = 19997 := by
  decide

theorem test_key_at_batch_end :
    (batchEnd 0 { start with keyPending := true }).systemVia.ifr = 0xFF
      ∧ (batchEnd 0 { start with keyPending := true }).irqPending = true
      ∧ (batchEnd 0 { start with keyPending := true }).keyPending = false := by
  decide

theorem test_ier_writes :
    ((Via.reset.set 0xE 0x83).get 0xE, ((Via.reset.set 0xE 0x83).set 0xE 0x01).get 0xE,
      (((Via.reset.set 0xE 0x83).set 0xE 0x01).set 0xE 0x7F).get 0xE) = (0x83, 0x82, 0x80) := by
  decide

theorem test_ifr_is_raw : (Via.reset.set 0xD 0x40).get 0xD = 0x40 := by decide

/-- Both control lines high. -/
def viaLines : Via := { Via.reset with ca2 := true, cb2 := true }

theorem test_pcr_lines :
    ((viaLines.set 0xC 0x0C).ca2, (viaLines.set 0xC 0x0C).cb2, (viaLines.set 0xC 0xCC).ca2, (viaLines.set 0xC 0xCC).cb2,
        (viaLines.set 0xC 0x02).ca2) = (false, true, false, false, true)
      ∧ ((Via.reset.set 0xC 0x0E).ca2, (Via.reset.set 0xC 0x80).cb2, (Via.reset.set 0xC 0x80).ca2) = (true, true, false) := by
  decide

theorem test_timer_latch_writes :
    ((Via.reset.set 6 0x34).set 7 0x12).t1 = { latch := 0x1234, counter := 0, running := false, reloadPending := false }
      ∧ (((Via.reset.set 6 0x34).set 7 0x12).set 5 0x00).t1
        = { latch := 0x0034, counter := 0x0034, running := true, reloadPending := false }
      ∧ (((Via.reset.set 6 0x34).set 7 0x12).set 5 0x00).get 4 = 0x00 := by
  decide

/-- Timer 1 started with latch 3 and its interrupt enabled. -/
def viaTimer : Via := ((Via.reset.set 0xE 0xC0).set 4 0x03).set 5 0x00

/-- Latch 3: fires on ticks 4 and 9. -/
theorem test_timer_period :
    (viaTimer.t1.availableTicks, (viaTimer.systemTick 3).2.irq, (viaTimer.systemTick 4).2.irq,
        (viaTimer.systemTick 4).1.ifr) = (some 4, false, true, 0xC0)
      ∧ ((viaTimer.systemTick 4).1.t1.availableTicks, ((viaTimer.systemTick 4).1.systemTick 4).2.irq,
        ((viaTimer.systemTick 4).1.systemTick 5).2.irq, (viaTimer.systemTick 11).1.t1.counter)
        = (some 5, false, true, 2) := by
  decide

/-- Timer 1 started with latch 2 and its interrupt disabled. -/
def viaQuiet : Via := (Via.reset.set 4 0x02).set 5 0x00

theorem test_timer_disabled :
    ((viaQuiet.systemTick 3).2.irq, (viaQuiet.systemTick 3).1.ifr) = (false, 0x40) := by
  decide

/-- Two registered banks, the first selected. -/
def twoBanks : State := { start with banks := [(0x0F, [(0, 0xFF)]), (0x01, [(0, 0x11)])] }

/-- E7: the bank select register changes what the paged window shows. -/
theorem test_bank_switch :
    (twoBanks.peek 0x8000, { twoBanks with selectedBank := 0x01 }.peek 0x8000) = (0xFF, 0x11) := by
  decide

/-- A batch of one dispatch ends: the default budget with no timer registered is 1. -/
theorem test_batch_ends :
    (ran { start with timers := [], keyPending := true } [0xEA]).map (fun t => (t.batch, t.irqPending, t.remainder))
      = some (none, true, 0) := by
  decide

theorem test_batch_open : (ran start [0xEA]).map (fun t => t.batch) = some (some { budget := 40000, used := 2 }) := by
  decide

theorem test_cancel : (ran { start with cancelRequested := true } [0xEA]).map (fun t => (t.run, t.pc))
    = some (.stoppedCancel, 0x0300) := by decide

/-! ## Witnesses: the hypotheses of each statement met together, each clause at the ends of its range -/

/-- An outcome that is a next state with a property gives that state. -/
def nextWith (o : StepOutcome) (p : State → Bool) : Bool :=
  match o with
  | .next t => p t
  | .fault _ => false
  | .refused _ => false

theorem exists_next {o : StepOutcome} (h : nextWith o (fun _ => true) = true) : ∃ t, o = .next t := by
  cases o with
  | next t => exact ⟨t, rfl⟩
  | fault _ => simp [nextWith] at h
  | refused _ => simp [nextWith] at h

/-- The start state with another PC. -/
def pcAt (pc : Addr) : State := { start with pc := pc }

/-- The start state with DETECT_SELF_LOOP. -/
def looping : State := { start with cfg := { start.cfg with detectSelfLoop := true } }

/-- The start state with the given RAM. -/
def withCells (ram : Memory) : State := { start with ram := ram }

/-- The start state with the given flags. -/
def withFlagBits (c z n v : Bool) : State := { start with flags := { start.flags with c := c, z := z, n := n, v := v } }

/-- The start state in decimal mode, with A and C. -/
def decimal (a : Byte) (c : Bool) : State := { start with a := a, flags := { start.flags with d := true, c := c } }

/-- Routing at the ends of every line of R62 and R63, and of every ignored window. -/
theorem witness_AddressDecoder :
    region 0x0000 = .ram ∧ region 0x7FFF = .ram ∧ region 0x8000 = .pagedRom 0 ∧ region 0xBFFF = .pagedRom 0x3FFF
      ∧ region 0xC000 = .osRom 0 ∧ region 0xFBFF = .osRom 0x3BFF ∧ region 0xFC00 = .ignored ∧ region 0xFDFF = .ignored
      ∧ region 0xFE00 = .osRom 0x3E00 ∧ region 0xFE07 = .osRom 0x3E07 ∧ region 0xFE08 = .ignored
      ∧ region 0xFE09 = .ignored ∧ region 0xFE0A = .osRom 0x3E0A ∧ region 0xFE10 = .ignored ∧ region 0xFE20 = .ignored
      ∧ region 0xFE21 = .ignored ∧ region 0xFE22 = .osRom 0x3E22 ∧ region 0xFE30 = .bankSelect
      ∧ region 0xFE31 = .osRom 0x3E31 ∧ region 0xFE40 = .via .system 0 ∧ region 0xFE4F = .via .system 0xF
      ∧ region 0xFE50 = .osRom 0x3E50 ∧ region 0xFE60 = .via .user 0 ∧ region 0xFE6F = .via .user 0xF
      ∧ region 0xFE70 = .osRom 0x3E70 ∧ region 0xFEC0 = .ignored ∧ region 0xFEC2 = .ignored
      ∧ region 0xFEC3 = .osRom 0x3EC3 ∧ region 0xFEE0 = .ignored ∧ region 0xFEE5 = .ignored
      ∧ region 0xFFFF = .osRom 0x3FFF := by
  decide

theorem witness_DecodeEncodeAgree :
    (Instr.jmpInd 0xFFFF).wellFormed = true ∧ decode [0x6C, 0xFF, 0xFF, 0x00] = .instr (.jmpInd 0xFFFF) [0x00] := by
  decide

theorem witness_IllegalOpcodesFault :
    (withCells [(0x300, 0x02)]).peek 0x300 = 0x02 ∧ Readable (withCells [(0x300, 0x02)]) 0x300
      ∧ (∀ bs : List Byte, decode (0x02 :: bs) = .illegalOpcode 0x02)
      ∧ (withCells [(0x300, 0xFF)]).peek 0x300 = 0xFF ∧ Readable (withCells [(0x300, 0xFF)]) 0x300
      ∧ ∀ bs : List Byte, decode (0xFF :: bs) = .illegalOpcode 0xFF :=
  ⟨by decide, by simp only [Readable]; decide, fun _ => rfl, by decide, by simp only [Readable]; decide, fun _ => rfl⟩

/-- A row of each kind: an operand byte, an operand word, no operand. -/
theorem witness_OpcodeTableRows :
    ((Instr.ldxZpy 0xFF).mode = .zeroPageY 0xFF ∧ (Instr.ldxZpy 0xFF).opcode = 0xB6 ∧ (Instr.ldxZpy 0xFF).mnemonic = .ldx
        ∧ (Instr.ldxZpy 0xFF).baseCycles = 4)
      ∧ ((Instr.incAbx 0x1234).mode = .absoluteX 0x1234 ∧ (Instr.incAbx 0x1234).opcode = 0xFE
        ∧ (Instr.incAbx 0x1234).mnemonic = .inc ∧ (Instr.incAbx 0x1234).baseCycles = 7)
      ∧ (Instr.rorAcc.mode = .implied ∧ Instr.rorAcc.opcode = 0x6A ∧ Instr.rorAcc.mnemonic = .ror
        ∧ Instr.rorAcc.baseCycles = 2) := by
  decide

/-- The last byte of the space is the last byte of the instruction. -/
theorem witness_FetchReadsBytesAtPc :
    fetch (loadBytes (pcAt 0x0300) 0x0300 [0xEA]) = .instr .nop
      ∧ fetch (loadBytes (pcAt 0xFFFE) 0xFFFE [0xA9, 0x08]) = .instr (.ldaImm 0x08)
      ∧ fetch (loadBytes (pcAt 0xFFFD) 0xFFFD [0xAD, 0x34, 0x12]) = .instr (.ldaAbs 0x1234) := by
  decide

theorem witness_OperandFetchPastTopFaults :
    (opcodeLength ({ pcAt 0xFFFF with osRom := [(0x3FFF, 0xA9)] }.peek 0xFFFF) = some 2
        ∧ 0x10000 < (pcAt 0xFFFF).pc.toNat + 2)
      ∧ opcodeLength ({ pcAt 0xFFFE with osRom := [(0x3FFE, 0xAD)] }.peek 0xFFFE) = some 3
      ∧ 0x10000 < (pcAt 0xFFFE).pc.toNat + 3 := by
  decide

theorem witness_WriteChangesOnlyItsAddress :
    start.ram.wf 0x8000 = true ∧ Writable start 0x0000 ∧ Writable start 0x7FFF ∧ Writable start 0xFE30
      ∧ Writable start 0xFE40 ∧ Writable start 0xFE4F ∧ Writable start 0xFE60 ∧ Writable start 0xFE6F
      ∧ Writable start 0xFC00 ∧ Writable start 0xFEE5 ∧ Writable strict 0x7FFF := by
  and_intros <;> first | decide | (simp only [Writable]; decide)

theorem witness_StackPushPull : { start with sp := 0x00 }.ram.wf 0x8000 = true ∧ start.ram.wf 0x8000 = true := by
  decide

theorem witness_Read16IsLittleEndian :
    ¬Readable strict 0xFC00 ∧ Readable start 0x00FF ∧ (0x00FF : Addr).toNat < 0xFFFF ∧ Readable start (0x00FF + 1)
      ∧ Readable start 0xFFFE ∧ (0xFFFE : Addr).toNat < 0xFFFF ∧ Readable start (0xFFFE + 1)
      ∧ Readable strict 0xFBFF ∧ ¬Readable strict (0xFBFF + 1) ∧ (0xFFFF : Addr).toNat = 0xFFFF := by
  simp only [Readable]; decide

/-- Sums 0xFFFF and 0x10000, in X and in Y. -/
theorem witness_IndexedModesWrapOrFault :
    (0xFFFE : Addr).toNat + ({ start with x := 0x01 } : State).x.toNat ≤ 0xFFFF
      ∧ 0xFFFF < (0xFFFF : Addr).toNat + ({ start with x := 0x01 } : State).x.toNat
      ∧ (0xFFFE : Addr).toNat + ({ start with y := 0x01 } : State).y.toNat ≤ 0xFFFF
      ∧ 0xFFFF < (0xFFFF : Addr).toNat + ({ start with y := 0x01 } : State).y.toNat := by
  decide

/-- A (zp),Y sum of exactly 0xFFFF at Y = 0x00, of 0x10000 at Y = 0x01. -/
theorem witness_PointerModesWrapTheirPage :
    ((0x10FF : Addr).toNat / 256 = (0x1000 : Addr).toNat / 256
        ∧ (0x1000 : Addr).toNat % 256 = ((0x10FF : Addr).toNat + 1) % 256
        ∧ Readable start 0x10FF ∧ Readable start 0x1000)
      ∧ ((0xFC00 : Addr).toNat / 256 = (0xFC01 : Addr).toNat / 256
        ∧ (0xFC01 : Addr).toNat % 256 = ((0xFC00 : Addr).toNat + 1) % 256 ∧ ¬Readable strict 0xFC00)
      ∧ ((0xFE07 : Addr).toNat / 256 = (0xFE08 : Addr).toNat / 256
        ∧ (0xFE08 : Addr).toNat % 256 = ((0xFE07 : Addr).toNat + 1) % 256
        ∧ Readable strict 0xFE07 ∧ ¬Readable strict 0xFE08)
      ∧ 0xFFFF = ((withCells [(0xFF, 0xFF), (0x00, 0xFF)]).ram.read (0xFF : Byte).toNat).toNat
        + 256 * ((withCells [(0xFF, 0xFF), (0x00, 0xFF)]).ram.read (((0xFF : Byte).toNat + 1) % 256)).toNat
        + start.y.toNat
      ∧ 0x10000 = ((withCells [(0xFF, 0xFF), (0x00, 0xFF)]).ram.read (0xFF : Byte).toNat).toNat
        + 256 * ((withCells [(0xFF, 0xFF), (0x00, 0xFF)]).ram.read (((0xFF : Byte).toNat + 1) % 256)).toNat
        + ({ start with y := 0x01 } : State).y.toNat := by
  simp only [Readable]; decide

theorem witness_OperandIsByteAtEffectiveAddress :
    (AddrMode.absolute 0xFC00 ≠ .implied ∧ (∀ b, AddrMode.absolute 0xFC00 ≠ .immediate b)
        ∧ (ea (.absolute 0xFC00)).run start = .ok 0xFC00 start ∧ Readable start 0xFC00)
      ∧ ((ea (.absolute 0xFC00)).run strict = .ok 0xFC00 strict ∧ ¬Readable strict 0xFC00)
      ∧ (Instr.ldaImm 0x08).mode = .immediate 0x08
      ∧ fetch (loadBytes (pcAt 0xFFFE) 0xFFFE [0xA9, 0x08]) = .instr (.ldaImm 0x08) :=
  ⟨⟨by decide, fun _ => by simp, rfl, by simp only [Readable]; decide⟩, ⟨rfl, by simp only [Readable]; decide⟩, rfl,
    by decide⟩

/-- PC 0xFFFD is the last at which a two-byte instruction fits; at 0xFFFE it is fetched and its PC update faults. -/
theorem witness_LoadsWriteTheirRegister :
    ((Instr.ldaImm 0x80).opcode ∈ [0xA9, 0xA5, 0xB5, 0xAD, 0xBD, 0xB9, 0xA1, 0xB1]
        ∧ (operand (Instr.ldaImm 0x80).mode).run (pcAt 0xFFFD) = .ok 0x80 (pcAt 0xFFFD)
        ∧ Fits (.ldaImm 0x80) (pcAt 0xFFFD)
        ∧ (operand (Instr.ldaImm 0x80).mode).run (pcAt 0xFFFE) = .ok 0x80 (pcAt 0xFFFE)
        ∧ ¬Fits (.ldaImm 0x80) (pcAt 0xFFFE))
      ∧ ((Instr.ldxZpy 0xFF).opcode ∈ [0xA2, 0xA6, 0xB6, 0xAE, 0xBE]
        ∧ (operand (Instr.ldxZpy 0xFF).mode).run start = .ok 0x00 start ∧ Fits (.ldxZpy 0xFF) start)
      ∧ ((Instr.ldyAbx 0xFFFF).opcode ∈ [0xA0, 0xA4, 0xB4, 0xAC, 0xBC]
        ∧ (operand (Instr.ldyAbx 0xFFFF).mode).run start = .ok 0x00 start ∧ Fits (.ldyAbx 0xFFFF) start)
      ∧ ((operand (Instr.ldaAbs 0xFC00).mode).run strict = .error (.ignoredHardwareAccess 0xFC00 .read) strict) := by
  and_intros <;> first | rfl | decide | (simp only [Fits]; decide)

theorem witness_StoresWriteMemory :
    ((Instr.staAbs 0x7FFF).opcode ∈ [0x85, 0x95, 0x8D, 0x9D, 0x99, 0x81, 0x91]
        ∧ (ea (Instr.staAbs 0x7FFF).mode).run start = .ok 0x7FFF start ∧ Writable start 0x7FFF
        ∧ Fits (.staAbs 0x7FFF) start)
      ∧ ((Instr.stxZp 0x00).opcode ∈ [0x86, 0x96, 0x8E]
        ∧ (ea (Instr.stxZp 0x00).mode).run (pcAt 0xFFFE) = .ok 0x0000 (pcAt 0xFFFE) ∧ Writable (pcAt 0xFFFE) 0x0000
        ∧ ¬Fits (.stxZp 0x00) (pcAt 0xFFFE))
      ∧ ((Instr.styAbs 0x8000).opcode ∈ [0x84, 0x94, 0x8C]
        ∧ (ea (Instr.styAbs 0x8000).mode).run start = .ok 0x8000 start
        ∧ (memWrite 0x8000 0x00).run start = .error (.readOnlyViolation (.pagedRom 0x0F) 0x8000 0x00) start)
      ∧ (ea (Instr.staAbx 0xFFFF).mode).run { start with x := 0x01 }
        = .error (.outOfRange 0x10000 none) { start with x := 0x01 } := by
  and_intros <;> first | rfl | decide | (simp only [Fits]; decide) | (simp only [Writable]; decide)

theorem witness_TransfersCopyRegisters :
    Instr.tax.opcode = 0xAA ∧ Instr.tay.opcode = 0xA8 ∧ Instr.txa.opcode = 0x8A ∧ Instr.tya.opcode = 0x98
      ∧ Instr.tsx.opcode = 0xBA ∧ Instr.txs.opcode = 0x9A ∧ Fits .tax (pcAt 0xFFFE) ∧ Fits .txs (pcAt 0xFFFE)
      ∧ ¬Fits .tax (pcAt 0xFFFF) ∧ ¬Fits .txs (pcAt 0xFFFF) := by
  simp only [Fits]; decide

/-- Binary: 0xFF + 0xFF + 1. Decimal: digit sums 9, 10 and 19, and 0x9 and 0xA high. -/
theorem witness_AdcAddsWithCarry :
    ((Instr.adcImm 0xFF).opcode ∈ [0x69, 0x65, 0x75, 0x6D, 0x7D, 0x79, 0x61, 0x71] ∧ (pcAt 0xFFFD).flags.d = false
        ∧ (operand (Instr.adcImm 0xFF).mode).run (pcAt 0xFFFD) = .ok 0xFF (pcAt 0xFFFD)
        ∧ Fits (.adcImm 0xFF) (pcAt 0xFFFD) ∧ ¬Fits (.adcImm 0xFF) (pcAt 0xFFFE))
      ∧ ((decimal 0x49 true).flags.d = true
        ∧ (operand (Instr.adcImm 0x50).mode).run (decimal 0x49 true) = .ok 0x50 (decimal 0x49 true)
        ∧ 10 = (decimal 0x49 true).a.toNat % 16 + (0x50 : Byte).toNat % 16 + (decimal 0x49 true).flags.c.toNat
        ∧ 16 = (10 + 6) % 16 + 16
        ∧ 0xA0 = (decimal 0x49 true).a.toNat / 16 * 16 + (0x50 : Byte).toNat / 16 * 16 + 16
        ∧ Fits (.adcImm 0x50) (decimal 0x49 true))
      ∧ (9 = (decimal 0x99 false).a.toNat % 16 + (0x00 : Byte).toNat % 16 + (decimal 0x99 false).flags.c.toNat
        ∧ 0x99 = (decimal 0x99 false).a.toNat / 16 * 16 + (0x00 : Byte).toNat / 16 * 16 + 9)
      ∧ (operand (Instr.adcAbs 0xFDFF).mode).run strict = .error (.ignoredHardwareAccess 0xFDFF .read) strict := by
  and_intros <;> first | rfl | decide | (simp only [Fits]; decide)

theorem witness_SbcSubtractsWithBorrow :
    ((Instr.sbcImm 0x01).opcode ∈ [0xE9, 0xE5, 0xF5, 0xED, 0xFD, 0xF9, 0xE1, 0xF1] ∧ start.flags.d = false
        ∧ (operand (Instr.sbcImm 0x01).mode).run start = .ok 0x01 start
        ∧ (-2 : Int) = start.a.toNat - (0x01 : Byte).toNat - (1 - start.flags.c.toNat : Int)
        ∧ Fits (.sbcImm 0x01) start ∧ ¬Fits (.sbcImm 0x01) (pcAt 0xFFFE))
      ∧ ((decimal 0x10 true).flags.d = true
        ∧ (operand (Instr.sbcImm 0x01).mode).run (decimal 0x10 true) = .ok 0x01 (decimal 0x10 true)
        ∧ (-1 : Int) = ((decimal 0x10 true).a.toNat % 16 : Int) - (0x01 : Byte).toNat % 16
          + (decimal 0x10 true).flags.c.toNat - 1
        ∧ (-7 : Int) = (-1 - 6) % 16 - 16
        ∧ (0x09 : Int) = ((decimal 0x10 true).a.toNat / 16 * 16 : Int) - (0x01 : Byte).toNat / 16 * 16 + -7
        ∧ (0x09 : Byte) = BitVec.ofInt 8 0x09 ∧ Fits (.sbcImm 0x01) (decimal 0x10 true))
      ∧ (operand (Instr.sbcAbs 0xFE10).mode).run strict = .error (.ignoredHardwareAccess 0xFE10 .read) strict := by
  and_intros <;> first | rfl | decide | (simp only [Fits]; decide)

theorem witness_DecimalArithmeticOnDigits : 9 < 10 ∧ 0 < 10 := by decide

theorem witness_LogicOperations :
    ((Instr.andImm 0x3C).opcode ∈ [0x29, 0x25, 0x35, 0x2D, 0x3D, 0x39, 0x21, 0x31]
        ∧ (∀ k < 8, (0x30 : Byte).getLsbD k
          = (({ start with a := 0xF0 } : State).a.getLsbD k && (0x3C : Byte).getLsbD k))
        ∧ (operand (Instr.andImm 0x3C).mode).run { start with a := 0xF0 } = .ok 0x3C { start with a := 0xF0 }
        ∧ Fits (.andImm 0x3C) { start with a := 0xF0 } ∧ ¬Fits (.andImm 0x3C) (pcAt 0xFFFE))
      ∧ ((Instr.oraZp 0x10).opcode ∈ [0x09, 0x05, 0x15, 0x0D, 0x1D, 0x19, 0x01, 0x11]
        ∧ (∀ k < 8, (0x00 : Byte).getLsbD k = (start.a.getLsbD k || (0x00 : Byte).getLsbD k))
        ∧ (operand (Instr.oraZp 0x10).mode).run start = .ok 0x00 start)
      ∧ ((Instr.eorImm 0xFF).opcode ∈ [0x49, 0x45, 0x55, 0x4D, 0x5D, 0x59, 0x41, 0x51]
        ∧ (∀ k < 8, (0xFF : Byte).getLsbD k = (start.a.getLsbD k != (0xFF : Byte).getLsbD k))
        ∧ (operand (Instr.eorImm 0xFF).mode).run start = .ok 0xFF start)
      ∧ (operand (Instr.andAbs 0xFC00).mode).run strict = .error (.ignoredHardwareAccess 0xFC00 .read) strict := by
  and_intros <;> first | rfl | decide | (simp only [Fits]; decide)

theorem witness_ComparesSetFlags :
    ((Instr.cmpImm 0xFF).opcode ∈ [0xC9, 0xC5, 0xD5, 0xCD, 0xDD, 0xD9, 0xC1, 0xD1]
        ∧ (operand (Instr.cmpImm 0xFF).mode).run start = .ok 0xFF start ∧ Fits (.cmpImm 0xFF) start
        ∧ ¬Fits (.cmpImm 0xFF) (pcAt 0xFFFE))
      ∧ ((Instr.cpxZp 0xFF).opcode ∈ [0xE0, 0xE4, 0xEC] ∧ (operand (Instr.cpxZp 0xFF).mode).run start = .ok 0x00 start)
      ∧ ((Instr.cpyImm 0x00).opcode ∈ [0xC0, 0xC4, 0xCC] ∧ (operand (Instr.cpyImm 0x00).mode).run start = .ok 0x00 start)
      ∧ (operand (Instr.cpyAbs 0xFC00).mode).run strict = .error (.ignoredHardwareAccess 0xFC00 .read) strict := by
  and_intros <;> first | rfl | decide | (simp only [Fits]; decide)

theorem witness_BitTestsMemory :
    ((Instr.bitZp 0x10).opcode ∈ [0x24, 0x2C] ∧ (operand (Instr.bitZp 0x10).mode).run start = .ok 0x00 start
        ∧ Fits (.bitZp 0x10) start ∧ ¬Fits (.bitZp 0x10) (pcAt 0xFFFE))
      ∧ (operand (Instr.bitAbs 0xFC00).mode).run strict = .error (.ignoredHardwareAccess 0xFC00 .read) strict := by
  and_intros <;> first | rfl | decide | (simp only [Fits]; decide)

/-- 0xFF wraps up to 0x00 and 0x00 down to 0xFF; a ROM write comes after the read, a strict ignored read before it. -/
theorem witness_IncDecMemory :
    ((Instr.incZp 0x10).opcode ∈ [0xE6, 0xF6, 0xEE, 0xFE]
        ∧ (0x00 : Byte).toNat = (((withCells [(0x10, 0xFF)]).peek 0x0010).toNat + 1) % 256
        ∧ (ea (Instr.incZp 0x10).mode).run (withCells [(0x10, 0xFF)]) = .ok 0x0010 (withCells [(0x10, 0xFF)])
        ∧ Writable (withCells [(0x10, 0xFF)]) 0x0010 ∧ Fits (.incZp 0x10) (withCells [(0x10, 0xFF)]))
      ∧ ((Instr.decZp 0x10).opcode ∈ [0xC6, 0xD6, 0xCE, 0xDE]
        ∧ (0xFF : Byte).toNat = (((pcAt 0xFFFE).peek 0x0010).toNat + 255) % 256
        ∧ (ea (Instr.decZp 0x10).mode).run (pcAt 0xFFFE) = .ok 0x0010 (pcAt 0xFFFE)
        ∧ Writable (pcAt 0xFFFE) 0x0010 ∧ ¬Fits (.decZp 0x10) (pcAt 0xFFFE))
      ∧ ((0x01 : Byte).toNat = ((start.peek 0xC000).toNat + 1) % 256
        ∧ (ea (Instr.incAbs 0xC000).mode).run start = .ok 0xC000 start ∧ Readable start 0xC000
        ∧ (memWrite 0xC000 0x01).run start = .error (.readOnlyViolation .osRom 0xC000 0x01) start)
      ∧ ((ea (Instr.incAbs 0xFC00).mode).run strict = .ok 0xFC00 strict ∧ ¬Readable strict 0xFC00)
      ∧ (ea (Instr.decAbx 0xFFFF).mode).run { start with x := 0x01 }
        = .error (.outOfRange 0x10000 none) { start with x := 0x01 } := by
  and_intros <;> first | rfl | decide | (simp only [Fits]; decide) | (simp only [Writable, Readable]; decide)

theorem witness_IncDecRegisters :
    (Instr.inx.opcode = 0xE8 ∧ (0x00 : Byte).toNat = (({ start with x := 0xFF } : State).x.toNat + 1) % 256)
      ∧ (Instr.iny.opcode = 0xC8 ∧ (0x80 : Byte).toNat = (({ start with y := 0x7F } : State).y.toNat + 1) % 256)
      ∧ (Instr.dex.opcode = 0xCA ∧ (0xFF : Byte).toNat = (start.x.toNat + 255) % 256)
      ∧ (Instr.dey.opcode = 0x88 ∧ (0xFF : Byte).toNat = (start.y.toNat + 255) % 256)
      ∧ Fits .inx (pcAt 0xFFFE) ∧ ¬Fits .inx (pcAt 0xFFFF) := by
  simp only [Fits]; decide

/-- The accumulator 0x81 and the memory byte 0x81, with C clear and set. -/
theorem witness_ShiftsAndRotates :
    (Instr.aslAcc.opcode = 0x0A ∧ (0x02 : Byte).toNat = 2 * (0x81 : Byte).toNat % 256
        ∧ Instr.lsrAcc.opcode = 0x4A ∧ (0x40 : Byte).toNat = (0x81 : Byte).toNat / 2
        ∧ Instr.rolAcc.opcode = 0x2A ∧ (0x03 : Byte).toNat = (2 * (0x81 : Byte).toNat + true.toNat) % 256
        ∧ Instr.rorAcc.opcode = 0x6A ∧ (0xC0 : Byte).toNat = (0x81 : Byte).toNat / 2 + 128 * true.toNat
        ∧ Fits .aslAcc (pcAt 0xFFFE) ∧ ¬Fits .rorAcc (pcAt 0xFFFF))
      ∧ (0x81 = ((withCells [(0x10, 0x81)]).peek 0x0010).toNat
        ∧ (Instr.aslZp 0x10).opcode ∈ [0x06, 0x16, 0x0E, 0x1E] ∧ (0x02 : Byte).toNat = 2 * 0x81 % 256
        ∧ (Instr.lsrZp 0x10).opcode ∈ [0x46, 0x56, 0x4E, 0x5E] ∧ (0x40 : Byte).toNat = 0x81 / 2
        ∧ (Instr.rolZp 0x10).opcode ∈ [0x26, 0x36, 0x2E, 0x3E]
        ∧ (Instr.rorZp 0x10).opcode ∈ [0x66, 0x76, 0x6E, 0x7E]
        ∧ (ea (Instr.aslZp 0x10).mode).run (withCells [(0x10, 0x81)]) = .ok 0x0010 (withCells [(0x10, 0x81)])
        ∧ Writable (withCells [(0x10, 0x81)]) 0x0010 ∧ Fits (.aslZp 0x10) (withCells [(0x10, 0x81)])
        ∧ ¬Fits (.aslZp 0x10) { withCells [(0x10, 0x81)] with pc := 0xFFFE })
      ∧ (0x00 = (start.peek 0xC000).toNat ∧ (ea (Instr.aslAbs 0xC000).mode).run start = .ok 0xC000 start
        ∧ Readable start 0xC000
        ∧ (memWrite 0xC000 0x00).run start = .error (.readOnlyViolation .osRom 0xC000 0x00) start)
      ∧ ((ea (Instr.rorAbs 0xFC00).mode).run strict = .ok 0xFC00 strict ∧ ¬Readable strict 0xFC00)
      ∧ (ea (Instr.lsrAbx 0xFFFF).mode).run { start with x := 0x01 }
        = .error (.outOfRange 0x10000 none) { start with x := 0x01 } := by
  and_intros <;> first | rfl | decide | (simp only [Fits]; decide) | (simp only [Writable, Readable]; decide)

theorem witness_RomWritesFault :
    0x00 = (start.peek 0x8000).toNat
      ∧ ((Instr.staAbs 0x8000).mnemonic = .sta ∧ 0x00 = start.a
        ∧ (ea (Instr.staAbs 0x8000).mode).run start = .ok 0x8000 start)
      ∧ ((Instr.decAbs 0xBFFF).mnemonic = .dec ∧ (0xFF : Byte).toNat = ((start.peek 0xBFFF).toNat + 255) % 256
        ∧ (ea (Instr.decAbs 0xBFFF).mode).run start = .ok 0xBFFF start)
      ∧ ((Instr.rorAbs 0xC000).mnemonic = .ror ∧ (Instr.rorAbs 0xC000).mode ≠ .implied
        ∧ (0x80 : Byte).toNat = (start.peek 0xC000).toNat / 2 + 128 * (withFlagBits true false false false).flags.c.toNat
        ∧ (ea (Instr.rorAbs 0xC000).mode).run (withFlagBits true false false false)
          = .ok 0xC000 (withFlagBits true false false false) ∧ isIgnored (0xC000 : Addr).toNat = false)
      ∧ ((Instr.incAbs 0xFFFF).mnemonic = .inc ∧ (0x01 : Byte).toNat = ((start.peek 0xFFFF).toNat + 1) % 256
        ∧ (ea (Instr.incAbs 0xFFFF).mode).run start = .ok 0xFFFF start ∧ isIgnored (0xFFFF : Addr).toNat = false)
      ∧ isIgnored (0xFE31 : Addr).toNat = false := by
  and_intros <;> first | rfl | decide

/-- Every branch taken and not taken; targets -1, 0x0000, 0xFFFF, 0x10000 and the branch itself; PC 0xFFFE too high. -/
theorem witness_ConditionalBranches :
    ((Instr.bccRel 0x10).mode = .immediate 0x10 ∧ (Instr.bccRel 0x10).opcode = 0x90 ∧ true = !start.flags.c
        ∧ 0xFFFF < (pcAt 0xFFFE).pc.toNat + 2 ∧ (pcAt 0xFFFD).pc.toNat + 2 ≤ 0xFFFF)
      ∧ ((Instr.bcsRel 0x10).opcode = 0xB0 ∧ false = start.flags.c ∧ (Instr.beqRel 0x10).opcode = 0xF0
        ∧ (Instr.bneRel 0x10).opcode = 0xD0 ∧ (Instr.bmiRel 0x10).opcode = 0x30 ∧ (Instr.bplRel 0x10).opcode = 0x10
        ∧ (Instr.bvcRel 0x10).opcode = 0x50 ∧ (Instr.bvsRel 0x10).opcode = 0x70)
      ∧ ((-1 : Int) = (pcAt 0x007D).pc.toNat + 2 + (0x80 : Byte).toInt
        ∧ ((0x0000 : Addr).toNat : Int) = (pcAt 0x007E).pc.toNat + 2 + (0x80 : Byte).toInt
        ∧ ((0xFFFF : Addr).toNat : Int) = (pcAt 0xFF7E).pc.toNat + 2 + (0x7F : Byte).toInt
        ∧ (0x10000 : Int) = (pcAt 0xFF7F).pc.toNat + 2 + (0x7F : Byte).toInt)
      ∧ (((0x0300 : Addr).toNat : Int) = looping.pc.toNat + 2 + (0xFE : Byte).toInt ∧ (0x0300 : Addr) = looping.pc
        ∧ looping.cfg.detectSelfLoop = true ∧ start.cfg.detectSelfLoop = false) := by
  decide

theorem witness_JumpSetsPc :
    ((Instr.jmpAbs 0x0300).opcode = 0x4C ∧ (ea (Instr.jmpAbs 0x0300).mode).run start = .ok 0x0300 start
        ∧ start.cfg.detectSelfLoop = false)
      ∧ ((ea (Instr.jmpAbs 0x0300).mode).run looping = .ok 0x0300 looping ∧ 0x0300 = looping.pc
        ∧ looping.cfg.detectSelfLoop = true)
      ∧ ((Instr.jmpInd 0x10FF).opcode = 0x6C ∧ (ea (Instr.jmpInd 0x10FF).mode).run looping = .ok 0x0000 looping
        ∧ 0x0000 ≠ looping.pc)
      ∧ (ea (Instr.jmpInd 0xFC00).mode).run strict = .error (.ignoredHardwareAccess 0xFC00 .read) strict := by
  and_intros <;> first | rfl | decide

theorem witness_JsrPushesReturnAddress :
    (pcAt 0xFFFD).pc.toNat + 2 ≤ 0xFFFF ∧ (0x1234 : Addr) ≠ (pcAt 0xFFFD).pc ∧ start.cfg.detectSelfLoop = false
      ∧ looping.pc.toNat + 2 ≤ 0xFFFF ∧ (0x0300 : Addr) = looping.pc ∧ looping.cfg.detectSelfLoop = true
      ∧ 0xFFFF < (pcAt 0xFFFE).pc.toNat + 2 := by
  decide

/-- The state after a JSR, SP 0xFD, with the given return address on the stack. -/
def returning (lo hi : Byte) : State := { looping with sp := 0xFD, ram := [(0x1FE, lo), (0x1FF, hi)] }

/-- Pulled addresses 0xFFFE, 0xFFFF and the one before PC. -/
theorem witness_RtsPullsReturnAddress :
    0xFFFE = ((returning 0xFE 0xFF).ram.read (0x0100 + ((returning 0xFE 0xFF).sp + 1).toNat)).toNat
        + 256 * ((returning 0xFE 0xFF).ram.read (0x0100 + ((returning 0xFE 0xFF).sp + 2).toNat)).toNat
      ∧ BitVec.ofNat 16 (0xFFFE + 1) ≠ (returning 0xFE 0xFF).pc
      ∧ 0x02FF = ((returning 0xFF 0x02).ram.read (0x0100 + ((returning 0xFF 0x02).sp + 1).toNat)).toNat
        + 256 * ((returning 0xFF 0x02).ram.read (0x0100 + ((returning 0xFF 0x02).sp + 2).toNat)).toNat
      ∧ BitVec.ofNat 16 (0x02FF + 1) = (returning 0xFF 0x02).pc ∧ (returning 0xFF 0x02).cfg.detectSelfLoop = true
      ∧ 0xFFFF = ((returning 0xFF 0xFF).ram.read (0x0100 + ((returning 0xFF 0xFF).sp + 1).toNat)).toNat
        + 256 * ((returning 0xFF 0xFF).ram.read (0x0100 + ((returning 0xFF 0xFF).sp + 2).toNat)).toNat := by
  decide

/-- PC 0xFFFC is the last with a following instruction. -/
theorem witness_JsrThenRtsReturns :
    (pcAt 0xFFFC).ram.wf 0x8000 = true ∧ (pcAt 0xFFFC).cfg.detectSelfLoop = false ∧ (pcAt 0xFFFC).pc.toNat + 3 ≤ 0xFFFF
      ∧ ∃ u, exec (.jsrAbs 0xFFFF) (pcAt 0xFFFC) = .next u :=
  ⟨by decide, by decide, by decide, exists_next (by decide)⟩

/-- The start state with IRQ pending. -/
def irqWaiting : State := { start with irqPending := true }

/-- PLP of 0x00 and of 0x04 with an IRQ waiting. -/
theorem witness_StackInstructions :
    Instr.pha.opcode = 0x48 ∧ Instr.php.opcode = 0x08 ∧ Instr.pla.opcode = 0x68 ∧ Instr.plp.opcode = 0x28
      ∧ 0x00 = start.ram.read (0x0100 + (start.sp + 1).toNat) ∧ Fits .pha (pcAt 0xFFFE) ∧ Fits .plp (pcAt 0xFFFE)
      ∧ ¬Fits .pha (pcAt 0xFFFF) ∧ ¬Fits .plp (pcAt 0xFFFF)
      ∧ (∃ u, exec .plp irqWaiting = .next u) ∧ irqWaiting.nmiPending = false ∧ irqWaiting.irqPending = true
      ∧ (irqWaiting.ram.read (0x0100 + (irqWaiting.sp + 1).toNat)).toNat / 4 % 2 = 0
      ∧ (∃ u, exec .plp { irqWaiting with ram := [(0x100, 0x04)] } = .next u)
      ∧ (Memory.read [(0x100, 0x04)] (0x0100 + (irqWaiting.sp + 1).toNat)).toNat / 4 % 2 = 1 := by
  and_intros <;> first | decide | exact exists_next (by decide) | (simp only [Fits]; decide)

theorem witness_FlagInstructionsAndNop :
    (Instr.clc.opcode = 0x18 ∧ Instr.sec.opcode = 0x38 ∧ Instr.cli.opcode = 0x58 ∧ Instr.sei.opcode = 0x78
        ∧ Instr.cld.opcode = 0xD8 ∧ Instr.sed.opcode = 0xF8 ∧ Instr.clv.opcode = 0xB8 ∧ Instr.nop.opcode = 0xEA
        ∧ (pcAt 0xFFFE).pc.toNat + 1 ≤ 0xFFFF ∧ (pcAt 0xFFFF).pc = 0xFFFF)
      ∧ ((∃ u, exec .cli irqWaiting = .next u) ∧ irqWaiting.nmiPending = false ∧ irqWaiting.irqPending = true)
      ∧ (∃ u, exec .sei irqWaiting = .next u) :=
  ⟨by decide, ⟨exists_next (by decide), by decide, by decide⟩, exists_next (by decide)⟩

/-- PC 0xFFFD is the last at which BRK has a return address; the blank OS ROM's vector is 0x0000. -/
theorem witness_BrkTakesInterrupt :
    ((pcAt 0xFFFD).pc.toNat + 2 ≤ 0xFFFF ∧ (pcAt 0xFFFD).cfg.detectSelfLoop = false
        ∧ 0xFFFF < (pcAt 0xFFFE).pc.toNat + 2)
      ∧ ({ looping with pc := 0x0000 } : State).pc.toNat + 2 ≤ 0xFFFF
      ∧ addrOfBytes (looping.osRom.read 0x3FFE) (looping.osRom.read 0x3FFF) = ({ looping with pc := 0x0000 } : State).pc
      ∧ looping.cfg.detectSelfLoop = true := by
  decide

theorem witness_RtiReturnsFromInterrupt :
    (addrOfBytes (looping.ram.read (0x0100 + (looping.sp + 2).toNat)) (looping.ram.read (0x0100 + (looping.sp + 3).toNat))
        ≠ looping.pc)
      ∧ addrOfBytes (looping.ram.read (0x0100 + (looping.sp + 2).toNat))
        (looping.ram.read (0x0100 + (looping.sp + 3).toNat)) = ({ looping with pc := 0x0000 } : State).pc
      ∧ looping.cfg.detectSelfLoop = true ∧ start.cfg.detectSelfLoop = false ∧ irqWaiting.nmiPending = false
      ∧ irqWaiting.irqPending = true ∧ (irqWaiting.ram.read (0x0100 + (irqWaiting.sp + 1).toNat)).toNat / 4 % 2 = 0 := by
  decide

theorem witness_BrkThenRtiRestores :
    (pcAt 0xFFFD).ram.wf 0x8000 = true ∧ (pcAt 0xFFFD).cfg.detectSelfLoop = false
      ∧ ∃ u, exec .brk (pcAt 0xFFFD) = .next u :=
  ⟨by decide, by decide, exists_next (by decide)⟩

/-- NMI with I set and IRQ pending; IRQ alone; IRQ masked; nothing pending. -/
theorem witness_InterruptEntry :
    ({ irqWaiting with nmiPending := true, flags := { start.flags with i := true } } : State).nmiPending = true
      ∧ (irqWaiting.nmiPending = false ∧ irqWaiting.irqPending = true ∧ irqWaiting.flags.i = false)
      ∧ ({ irqWaiting with flags := { start.flags with i := true } } : State).flags.i = true
      ∧ start.nmiPending = false ∧ start.irqPending = false := by
  decide

theorem witness_IrqThenRtiResumes :
    irqWaiting.ram.wf 0x8000 = true ∧ irqWaiting.cfg.detectSelfLoop = false ∧ irqWaiting.irqPending = true
      ∧ irqWaiting.flags.i = false ∧ (∃ u, dispatch irqWaiting = .next u)
      ∧ ∃ u, dispatch { start with nmiPending := true } = .next u :=
  ⟨by decide, by decide, by decide, by decide, exists_next (by decide), exists_next (by decide)⟩

theorem witness_InstructionFrame : ∃ t, exec (.incAbs 0xFE4E) start = .next t := exists_next (by decide)

/-- An instruction outside each list, and one of the list of Z and N. -/
theorem witness_OnlyListedInstructionsWrite :
    (∃ t, exec .nop start = .next t) ∧ (∃ t, exec (.aslZp 0x10) start = .next t)
      ∧ (Instr.aslZp 0x10).mnemonic ∈ [Mnemonic.asl, .lsr, .rol, .ror] ∧ (Instr.aslZp 0x10).mode ≠ .implied
      ∧ Instr.nop.mnemonic ∉ [Mnemonic.sta, .stx, .sty, .inc, .dec, .asl, .lsr, .rol, .ror, .pha, .php, .jsr, .brk] :=
  ⟨exists_next (by decide), exists_next (by decide), by decide, by decide, by decide⟩

/-- A function that changes exactly the run loop's state exists. -/
theorem witness_InstructionsIgnoreRunLoopState (u : State) : ∃ g : State → State, ∀ t : State, g t = { t with
      irqPending := u.irqPending, nmiPending := u.nmiPending, keyPending := u.keyPending
      cancelRequested := u.cancelRequested, batch := u.batch, timers := u.timers, remainder := u.remainder
      frameRemaining := u.frameRemaining, repaintRequests := u.repaintRequests
      flags := { t.flags with b := u.flags.b } } :=
  ⟨_, fun _ => rfl⟩

/-- A branch at its dearest, and an instruction that is no control-flow instruction. -/
theorem witness_CyclesAndPcAdvance :
    (∃ t, exec (.bccRel 0xF0) start = .next t) ∧ (∃ t, exec .nop (pcAt 0xFFFE) = .next t)
      ∧ Instr.nop.isControlFlow = false :=
  ⟨exists_next (by decide), exists_next (by decide), by decide⟩

/-- The start state with a NOP placed at PC. -/
def nopPlaced : State := loadBytes start start.pc [0xEA]

/-- Before a batch without cancel, inside a batch with cancel set, and with IRQ masked. -/
theorem witness_StepRunsDecodedInstruction :
    (nopPlaced.run = .running ∧ nopPlaced.cancelRequested = false ∧ nopPlaced.nmiPending = false
        ∧ nopPlaced.irqPending = false ∧ fetch nopPlaced = .instr .nop)
      ∧ { nopPlaced with batch := some { budget := 1, used := 0 }, cancelRequested := true }.batch ≠ none
      ∧ { nopPlaced with irqPending := true, flags := { start.flags with i := true } }.flags.i = true := by
  decide

/-- A first batch with timers and without, and an open one whose dispatch ends it. -/
theorem witness_BatchRunsToItsBudget :
    (nopPlaced.run = .running ∧ nopPlaced.batch = none ∧ nopPlaced.cancelRequested = false
        ∧ availableCpuTicks nopPlaced = some 40000 ∧ availableCpuTicks { nopPlaced with timers := [] } = none)
      ∧ (∃ t, dispatch { nopPlaced with batch := some { budget := 40000, used := 0 } } = .next t)
      ∧ (∃ t, dispatch { nopPlaced with batch := some { budget := 4, used := 2 } } = .next t)
      ∧ ∃ t, dispatch { nopPlaced with batch := some { budget := 5, used := 2 } } = .next t :=
  ⟨by decide, exists_next (by decide), exists_next (by decide), exists_next (by decide)⟩

theorem witness_BatchEndMergesInterrupts : ∃ u st, cpuTick 40000 { start with keyPending := true } = (u, st) := ⟨_, _, rfl⟩

/-- With I clear and with I set. -/
theorem witness_KeyPressInterruptsAtBatchEnd :
    start.nmiPending = false ∧ start.flags.i = false ∧ State.reset.nmiPending = false ∧ State.reset.flags.i = true
      ∧ ∃ t, t = batchEnd 2 (hostSetPendingInterrupt start) :=
  ⟨by decide, by decide, by decide, by decide, _, rfl⟩

theorem witness_CancelAndStop :
    ((hostCancel start).run = .running ∧ (hostCancel start).batch = none ∧ (hostCancel start).cancelRequested = true)
      ∧ (∃ t, step { hostCancel nopPlaced with batch := some { budget := 2, used := 0 } } = .next t)
      ∧ ({ start with run := .stoppedCancel } : State).run = .stoppedCancel
      ∧ ∃ r : FaultReport, ({ start with run := .stoppedFault r } : State).run = .stoppedFault r :=
  ⟨by decide, exists_next (by decide), by decide,
    { kind := .outOfRange (-1) none, pc := 0, opcode := none, cycleCount := 0 }, rfl⟩

/-- A step that leaves the batch open, one that ends it, and the stop by cancel. -/
theorem witness_StepWideRules :
    nextWith (step nopPlaced) (fun t => t.batch != none) = true
      ∧ nextWith (step { nopPlaced with timers := [] }) (fun t => t.batch == none) = true
      ∧ nextWith (step (hostCancel start)) (fun t => t.run == .stoppedCancel) = true := by
  decide

/-- Offsets 0, 0xF, 0xE and 0x10, and IER storage with bit 7 clear. -/
theorem witness_ViaRegisterFile :
    0 ≤ 0xF ∧ 0 ≠ 0xE ∧ 0xF ≤ 0xF ∧ 0xF ≠ 0xE ∧ 0xF < 0x10 ∧ Via.reset.ier.getLsbD 7 = false
      ∧ 0x80 ≤ (0x80 : Byte).toNat ∧ ¬0x80 ≤ (0x7F : Byte).toNat := by
  decide

/-- Control-line fields at 6, with and without their top bit, and the four Timer 1 offsets. -/
theorem witness_ViaControlLinesAndTimerWrites :
    0xB ≠ 0xC ∧ 3 ∉ [4, 5, 6, 7] ∧ 8 ∉ [4, 5, 6, 7] ∧ 4 ∈ [4, 6] ∧ 6 ∈ [4, 6] ∧ 0xC ∈ [4, 5, 6, 7, 0xC]
      ∧ (0x0C : Byte).toNat / 2 % 8 = 6 ∧ (0x08 : Byte).toNat / 2 % 8 ≠ 6 ∧ (0x08 : Byte).toNat / 8 % 2 = 1
      ∧ (0xC0 : Byte).toNat / 32 = 6 ∧ (0x80 : Byte).toNat / 32 ≠ 6 ∧ (0x80 : Byte).toNat / 128 = 1 := by
  decide

/-- Stopped; and running with the firing 4 ticks away, for 3, 4 and 5 ticks. -/
theorem witness_Timer1FiresOnItsTick :
    Via.reset.t1.running = false ∧ viaTimer.t1.availableTicks = some 4 ∧ 3 < 4 ∧ 4 ≤ 4 ∧ 4 = 4 ∧ 4 ≤ 5 := by
  decide

/-- The least and the greatest remaining; 0, 1 and 2 boundaries. -/
theorem witness_FrameTimerBoundaries :
    1 ≤ start.frameRemaining ∧ start.frameRemaining ≤ 20000 ∧ 0 = (20000 - start.frameRemaining + 19999) / 20000
      ∧ 1 = (20000 - start.frameRemaining + 20000) / 20000 ∧ 1 ≤ ({ start with frameRemaining := 1 } : State).frameRemaining
      ∧ 1 = (20000 - ({ start with frameRemaining := 1 } : State).frameRemaining + 1) / 20000
      ∧ 2 = (20000 - ({ start with frameRemaining := 1 } : State).frameRemaining + 20001) / 20000 := by
  decide

/-- Totals 1, 2 and 3, no timer registered, and the timers in another order. -/
theorem witness_CpuTickMergesTimers :
    1 = 1 + start.remainder ∧ 1 < 2 ∧ 2 = 1 + ({ start with remainder := 1 } : State).remainder ∧ 3 = 3 + start.remainder
      ∧ start.timers.Nodup ∧ ({ start with timers := [] } : State).timers = []
      ∧ [TimerName.frame, .systemViaT1, .userViaT1].Perm start.timers := by
  decide

/-- Timer 1 of the System VIA 4 ticks away is the least bound; with no timer there is none. -/
theorem witness_AvailableCpuTicksIsLeastBound :
    availableTicks .systemViaT1 { start with systemVia := viaTimer } = some 4
      ∧ availableCpuTicks { start with systemVia := viaTimer } = some 8
      ∧ availableCpuTicks { start with timers := [] } = none := by
  decide

/-- Launch inputs whose images have the given sizes, all bytes 0xEA. -/
def launchOf (ram os bank : Nat) : Launch :=
  { regs := ResetRegs.simulatorDefaults, ramInit := List.replicate ram 0xEA, osRom := List.replicate os 0xEA
    banks := [(0x0F, List.replicate bank 0xEA)], cfg := Config.default }

theorem launchOf_wellFormed (ram os bank : Nat) :
    (launchOf ram os bank).wellFormed = (decide (ram = 32768) && decide (os = 16384) && decide (bank = 16384)) := by
  simp [launchOf, Launch.wellFormed, imageWellFormed, bankKeysWellFormed, Config.wellFormed, Config.default,
    Bool.beq_eq_decide_eq]

/-- The exact sizes, and each image one byte off. -/
theorem witness_LaunchStartsTheMachine :
    (launchOf 32768 16384 16384).wellFormed = true ∧ (launchOf 32767 16384 16384).ramInit.length ≠ 32768
      ∧ (launchOf 32768 16385 16384).osRom.length ≠ 16384
      ∧ ∃ e ∈ (launchOf 32768 16384 16383).banks, e.2.length ≠ 16384 := by
  refine ⟨(launchOf_wellFormed _ _ _).trans (by decide), ?_, ?_, (0x0F, List.replicate 16383 0xEA), ?_, ?_⟩
  · exact fun h => absurd (List.length_replicate.symm.trans h) (by decide)
  · exact fun h => absurd (List.length_replicate.symm.trans h) (by decide)
  · exact List.mem_singleton.2 rfl
  · exact fun h => absurd (List.length_replicate.symm.trans h) (by decide)

/-- A state of the invariant whose step gives a next state (that the invariant holds at reset is a statement). -/
theorem witness_InvKeptByStep : Inv nopPlaced ∧ ∃ t, step nopPlaced = .next t :=
  ⟨{ ramWf := by decide, osRomWf := by decide, banksWf := by decide, bankKeys := by decide, breakFlag := by decide
     systemIer := by decide, userIer := by decide, remainderBound := by decide, frameBounds := by decide
     batchOpen := fun _ h => (nomatch h), timersDistinct := by decide, cfgWf := by decide }, exists_next (by decide)⟩

end Sys2Proof.Tests
end

/-! The family `10_state`: the invariant of the block, what an instruction leaves unchanged, what it reads, and the
layout of the status byte. -/

namespace Sys2Proof.Machine

open Sys2Proof

/-! ## The invariant: at reset, and kept by each part of a step -/

/-- Settles O58, field by field. -/
theorem invAtReset : Obligations.InvAtReset where
  ramWf := rfl
  osRomWf := rfl
  banksWf := rfl
  bankKeys := rfl
  breakFlag := rfl
  systemIer := rfl
  userIer := rfl
  remainderBound := by decide
  frameBounds := by decide
  batchOpen := fun _ h => nomatch h
  timersDistinct := by decide
  cfgWf := rfl

/-- Only the clause about the open batch constrains the batch. -/
theorem Inv.withBatch {s : State} (h : Inv s) (o : Option Batch) (ho : ∀ b, o = some b → b.used < b.budget) :
    Inv { s with batch := o } :=
  { h with batchOpen := ho }

/-- The next batch has a budget of at least 1 (10_state.md R43, 60_exceptions.md R260). -/
theorem nextBudget_pos {s : State} (h : s.cfg.wellFormed = true) : 0 < nextBudget s := by
  unfold nextBudget
  split
  · omega
  · exact of_decide_eq_true h

theorem Inv.openBatch {s : State} (h : Inv s) : Inv (openBatch s) := by
  rw [openBatch_only]
  refine h.withBatch _ fun b hb => ?_
  obtain ⟨b', hb', hs | ⟨-, rfl⟩⟩ := openBatch_batch s <;> cases hb.symm.trans hb'
  · exact h.batchOpen b hs
  · exact nextBudget_pos h.cfgWf

/-- A dispatch keeps the invariant, for it keeps what `Frame` lists, and the invariant does not speak of the latches. -/
theorem Inv.dispatch {s t : State} (h : Inv s) (hd : dispatch s = .next t) : Inv t := by
  have f := (dispatch_frame s t hd).frame
  exact
    { ramWf := f.ramWf h.ramWf
      osRomWf := f.osRom ▸ h.osRomWf
      banksWf := f.banks ▸ h.banksWf
      bankKeys := f.banks ▸ h.bankKeys
      breakFlag := f.breakFlag.trans h.breakFlag
      systemIer := f.systemIer h.systemIer
      userIer := f.userIer h.userIer
      remainderBound := f.remainder ▸ h.remainderBound
      frameBounds := f.frameRemaining ▸ h.frameBounds
      batchOpen := f.batch ▸ h.batchOpen
      timersDistinct := f.timers ▸ h.timersDistinct
      cfgWf := f.cfg ▸ h.cfgWf }

/-- Ticking the timers keeps the invariant when it leaves the remainder in range. -/
theorem Inv.ticked {s t : State} (h : Inv s) (f : TickFrame s t) (hr : t.remainder < Config.clockRatio) : Inv t := by
  rw [f.only]
  exact
    { h with
      systemIer := f.systemIer ▸ h.systemIer
      userIer := f.userIer ▸ h.userIer
      remainderBound := hr
      frameBounds := f.frameBounds h.frameBounds }

/-- The end of a batch ticks the timers, closes the batch, and otherwise writes the key flag, the latches and the System
VIA's IFR, of which the invariant does not speak. -/
theorem Inv.batchEnd {s : State} (h : Inv s) (used : Nat) : Inv (batchEnd used s) := by
  obtain ⟨f, -, hr⟩ := cpuTick_frame used s
  have ht : Inv (cpuTick used s).1 := h.ticked f hr
  exact
    { ht with
      systemIer := by
        simp only [Machine.batchEnd]
        split <;> exact ht.systemIer
      batchOpen := fun _ hb => nomatch hb }

/-- Settles O59: by the cases of a step, each of whose parts keeps the invariant. -/
theorem invKeptByStep : Obligations.InvKeptByStep := by
  intro s t h hstep
  rcases step_cases s t hstep with ⟨-, -, -, rfl⟩ | ⟨-, u, b, hd, -, -, ⟨-, rfl⟩ | ⟨hlt, rfl⟩⟩
  · exact { h with }
  · exact (h.openBatch.dispatch hd).batchEnd _
  · refine (h.openBatch.dispatch hd).withBatch _ fun b' hb' => ?_
    cases hb'
    exact hlt

/-! ## What no instruction changes -/

/-- An instruction that completes keeps the frame. -/
theorem exec_frame {i : Instr} {s t : State} (h : exec i s = .next t) : Frame s t := by
  rcases exec_cases i s with ⟨u, hu, -, f⟩ | ⟨u, hu, -⟩ | ⟨k, u, hu, -⟩ <;> rw [hu] at h <;> cases h
  exact f

/-- Settles O40: the statement lists parts of the frame. -/
theorem instructionFrame : Obligations.InstructionFrame := by
  intro i s t h
  have f := exec_frame h
  exact ⟨f.osRom, f.banks, f.irqPending, f.nmiPending, f.breakFlag, f.timers, f.remainder, f.frameRemaining,
    f.repaintRequests, f.keyPending, f.cancelRequested, f.batch, f.run, f.cfg⟩

/-! ## Which instructions write a piece of state -/

/-- A piece of the state that only some instructions write: a register, a flag (Z and N as one), RAM, and what a store
reaches beside RAM, the selected bank and the VIAs. -/
inductive Piece where
  | reg (r : Reg)
  | c
  | i
  | d
  | v
  | zn
  | ram
  | bus

/-- What a piece holds. -/
inductive Content where
  | byte (v : Byte)
  | bit (b : Bool)
  | bits (b₁ b₂ : Bool)
  | memory (m : Memory)
  | bus (bank : Byte) (systemVia userVia : Via)

/-- The content of a piece of a state. -/
def Piece.of (p : Piece) (s : State) : Content :=
  match p with
  | .reg r => .byte (s.reg r)
  | .c => .bit s.flags.c
  | .i => .bit s.flags.i
  | .d => .bit s.flags.d
  | .v => .bit s.flags.v
  | .zn => .bits s.flags.z s.flags.n
  | .ram => .memory s.ram
  | .bus => .bus s.selectedBank s.systemVia s.userVia

/-- The mnemonics that write a piece (10_state.md R31-R33, R36; 20_memory.md R83). -/
def writers : Piece → List Mnemonic
  | .reg .a => [.lda, .pla, .txa, .tya, .adc, .sbc, .and, .ora, .eor, .asl, .lsr, .rol, .ror]
  | .reg .x => [.ldx, .tax, .tsx, .inx, .dex]
  | .reg .y => [.ldy, .tay, .iny, .dey]
  | .reg .sp => [.txs, .pha, .php, .pla, .plp, .jsr, .rts, .brk, .rti]
  | .c => [.adc, .sbc, .cmp, .cpx, .cpy, .asl, .lsr, .rol, .ror, .clc, .sec, .plp, .rti]
  | .i => [.cli, .sei, .plp, .rti, .brk]
  | .d => [.cld, .sed, .plp, .rti]
  | .v => [.adc, .sbc, .bit, .clv, .plp, .rti]
  | .zn => [.lda, .ldx, .ldy, .tax, .tay, .txa, .tya, .tsx, .adc, .sbc, .and, .ora, .eor, .cmp, .cpx, .cpy, .bit, .inc,
      .dec, .inx, .iny, .dex, .dey, .asl, .lsr, .rol, .ror, .pla, .plp, .rti]
  | .ram => [.sta, .stx, .sty, .inc, .dec, .asl, .lsr, .rol, .ror, .pha, .php, .jsr, .brk]
  | .bus => [.sta, .stx, .sty, .inc, .dec, .asl, .lsr, .rol, .ror]

/-- The pieces a mnemonic writes. -/
abbrev written (m : Mnemonic) (p : Piece) : Prop := m ∈ writers p

/-- `x` writes no piece outside `W`. -/
def WritesOnly (W : Piece → Prop) {α : Type} (x : Exec α) : Prop := ∀ p, ¬W p → Keep p.of x

section
variable {W : Piece → Prop} {α β : Type} {mode : AddrMode}

theorem WritesOnly.bind {x : Exec α} {g : α → Exec β} (hx : WritesOnly W x) (hg : ∀ a, WritesOnly W (g a)) :
    WritesOnly W (x >>= g) := fun p hp => .bind (hx p hp) fun a => hg a p hp

theorem WritesOnly.pure {x : Exec α} (h : Pure x) : WritesOnly W x := fun _ _ => .pure h

theorem WritesOnly.ite {q : Prop} [Decidable q] {x y : Exec α} (hx : WritesOnly W x) (hy : WritesOnly W y) :
    WritesOnly W (if q then x else y) := fun p hp => .ite (hx p hp) (hy p hp)

theorem WritesOnly.setPc (a : Addr) : WritesOnly W (setPc a) := fun p _ => .setPc fun s => by
  rcases p with ⟨_ | _⟩ | _ <;> rfl

theorem WritesOnly.addCycles (n : Nat) : WritesOnly W (addCycles n) := fun p _ => .addCycles fun s m => by
  rcases p with ⟨_ | _⟩ | _ <;> rfl

theorem WritesOnly.setReg {r : Reg} {v : Byte} (h : W (.reg r)) : WritesOnly W (setReg r v) := fun p hp =>
  .setReg fun s => by
    cases p with
    | reg q => exact congrArg Content.byte (State.reg_withReg_other s r q v fun e => hp (e ▸ h))
    | _ => cases r <;> rfl

/-- A change of the flags, the flags outside `W` kept: by definition, unless said otherwise. -/
theorem WritesOnly.updateFlags {g : Flags → Flags} (hc : ¬W .c → ∀ f, (g f).c = f.c := by exact fun _ _ => rfl)
    (hi : ¬W .i → ∀ f, (g f).i = f.i := by exact fun _ _ => rfl)
    (hd : ¬W .d → ∀ f, (g f).d = f.d := by exact fun _ _ => rfl)
    (hv : ¬W .v → ∀ f, (g f).v = f.v := by exact fun _ _ => rfl)
    (hzn : ¬W .zn → ∀ f, (g f).z = f.z ∧ (g f).n = f.n := by exact fun _ _ => ⟨rfl, rfl⟩) :
    WritesOnly W (updateFlags g) := fun p hp => .updateFlags fun s => by
  cases p with
  | reg r => cases r <;> rfl
  | c => exact congrArg Content.bit (hc hp s.flags)
  | i => exact congrArg Content.bit (hi hp s.flags)
  | d => exact congrArg Content.bit (hd hp s.flags)
  | v => exact congrArg Content.bit (hv hp s.flags)
  | zn => exact congrArg₂ Content.bits (hzn hp s.flags).1 (hzn hp s.flags).2
  | ram => rfl
  | bus => rfl

theorem WritesOnly.setNZ {v : Byte} (h : W .zn) : WritesOnly W (Machine.updateFlags (setNZ v)) :=
  .updateFlags (hzn := absurd h)

theorem WritesOnly.pulledFlags {v : Byte} (hc : W .c) (hi : W .i) (hd : W .d) (hv : W .v) (hzn : W .zn) :
    WritesOnly W (Machine.updateFlags (pulledFlags v)) :=
  .updateFlags (absurd hc) (absurd hi) (absurd hd) (absurd hv) (absurd hzn)

theorem WritesOnly.memWrite {a : Addr} {v : Byte} (hr : W .ram) (hb : W .bus) : WritesOnly W (memWrite a v) := by
  intro p hp
  cases p with
  | ram => exact absurd hr hp
  | bus => exact absurd hb hp
  | reg r => cases r <;> exact .memWrite (fun _ _ => rfl) (fun _ _ => rfl) fun _ j _ => by cases j <;> rfl
  | _ => exact .memWrite (fun _ _ => rfl) (fun _ _ => rfl) fun _ j _ => by cases j <;> rfl

/-- The stack is RAM, so that a push reaches no VIA and no bank. -/
theorem WritesOnly.push {v : Byte} (hr : W .ram) (hs : W (.reg .sp)) : WritesOnly W (push v) := by
  intro p hp
  refine .push fun s m sp => ?_
  cases p with
  | ram => exact absurd hr hp
  | reg r =>
    cases r with
    | sp => exact absurd hs hp
    | _ => rfl
  | _ => rfl

theorem WritesOnly.pull (hs : W (.reg .sp)) : WritesOnly W pull :=
  .bind (.pure (.getReg _)) fun _ => .bind (.setReg hs) fun _ => .pure (.memRead _)

theorem WritesOnly.pull16 (hs : W (.reg .sp)) : WritesOnly W pull16 :=
  .bind (.pull hs) fun _ => .bind (.pull hs) fun _ => .pure (.pure _)

theorem WritesOnly.push16 {v : Addr} (hr : W .ram) (hs : W (.reg .sp)) : WritesOnly W (push16 v) :=
  .bind (.push hr hs) fun _ => .push hr hs

/-! The effect of each family of instructions. -/

theorem WritesOnly.load {r : Reg} (hr : W (.reg r)) (hzn : W .zn) : WritesOnly W (load r mode) :=
  .bind (.pure (.operand _)) fun _ => .bind (.setReg hr) fun _ => .setNZ hzn

theorem WritesOnly.store {r : Reg} (hr : W .ram) (hb : W .bus) : WritesOnly W (store r mode) :=
  .bind (.pure (.ea _)) fun _ => .bind (.pure (.getReg _)) fun _ => .memWrite hr hb

theorem WritesOnly.transfer {src dst : Reg} (hd : W (.reg dst)) (hzn : W .zn) : WritesOnly W (transfer src dst) :=
  .bind (.pure (.getReg _)) fun _ => .bind (.setReg hd) fun _ => .setNZ hzn

theorem WritesOnly.accumulate {op : Byte → Byte → Flags → Byte × Flags} (ha : W (.reg .a))
    (hf : ∀ a m, WritesOnly W (Machine.updateFlags fun f => (op a m f).2)) : WritesOnly W (accumulate op mode) :=
  .bind (.pure (.operand _)) fun _ => .bind (.pure (.getReg _)) fun _ => .bind (.pure .getFlags) fun _ =>
    .bind (.setReg ha) fun _ => hf _ _

theorem WritesOnly.compareReg {r : Reg} (hc : W .c) (hzn : W .zn) : WritesOnly W (compareReg r mode) :=
  .bind (.pure (.operand _)) fun _ => .bind (.pure (.getReg _)) fun _ =>
    .updateFlags (hc := absurd hc) (hzn := absurd hzn)

theorem WritesOnly.bitTest (hv : W .v) (hzn : W .zn) : WritesOnly W (bitTest mode) :=
  .bind (.pure (.operand _)) fun _ => .bind (.pure (.getReg _)) fun _ =>
    .updateFlags (hv := absurd hv) (hzn := absurd hzn)

theorem WritesOnly.modifyMem {op : Byte → Byte} (hr : W .ram) (hb : W .bus) (hzn : W .zn) :
    WritesOnly W (modifyMem op mode) :=
  .bind (.pure (.ea _)) fun _ => .bind (.pure (.memRead _)) fun _ => .bind (.memWrite hr hb) fun _ => .setNZ hzn

theorem WritesOnly.modifyReg {op : Byte → Byte} {r : Reg} (hr : W (.reg r)) (hzn : W .zn) :
    WritesOnly W (modifyReg op r) :=
  .bind (.pure (.getReg _)) fun _ => .bind (.setReg hr) fun _ => .setNZ hzn

theorem WritesOnly.shiftMem {op : Shift} (hr : W .ram) (hb : W .bus) (hc : W .c) (hzn : W .zn) :
    WritesOnly W (shiftMem op mode) :=
  .bind (.pure (.ea _)) fun _ => .bind (.pure (.memRead _)) fun _ => .bind (.pure .getFlags) fun _ =>
    .bind (.memWrite hr hb) fun _ => .updateFlags (hc := absurd hc) (hzn := absurd hzn)

theorem WritesOnly.shiftAcc {op : Shift} (ha : W (.reg .a)) (hc : W .c) (hzn : W .zn) : WritesOnly W (shiftAcc op) :=
  .bind (.pure (.getReg _)) fun _ => .bind (.pure .getFlags) fun _ => .bind (.setReg ha) fun _ =>
    .updateFlags (hc := absurd hc) (hzn := absurd hzn)

theorem WritesOnly.shiftAny {op : Shift} (ha : W (.reg .a)) (hr : W .ram) (hb : W .bus) (hc : W .c) (hzn : W .zn) :
    WritesOnly W (shiftAny op mode) := by
  by_cases h : mode = .implied
  · subst h
    exact .shiftAcc ha hc hzn
  · rw [shiftAny_mem op mode h]
    exact .shiftMem hr hb hc hzn

theorem WritesOnly.branch {base : Nat} {cond : Flags → Bool} {off8 : Byte} : WritesOnly W (branch base cond off8) :=
  .bind (.pure .getPc) fun _ => .bind (.pure (.addr16 _)) fun _ => .bind (.pure .getFlags) fun _ => .ite
    (.bind (.pure (.addr16 _)) fun _ => .bind (.addCycles _) fun _ => .setPc _)
    (.bind (.addCycles _) fun _ => .setPc _)

theorem Pure.read16 (a : Addr) : Pure (read16 a) :=
  .bind (.memRead _) fun _ => .bind (.addr16 _) fun _ => .bind (.memRead _) fun _ => .pure _

theorem WritesOnly.enterInterrupt {ret : Addr} {b : Bool} {vector : Addr} (hr : W .ram) (hs : W (.reg .sp))
    (hi : W .i) : WritesOnly W (enterInterrupt ret b vector) :=
  .bind (.push16 hr hs) fun _ => .bind (.pure .getFlags) fun _ => .bind (.push hr hs) fun _ =>
    .bind (.updateFlags (hi := absurd hi)) fun _ => .bind (.pure (.read16 _)) fun _ => .setPc _

theorem WritesOnly.advance {len base : Nat} : WritesOnly W (advance len base) :=
  .bind (.pure .getPc) fun _ => .bind (.pure (.addr16 _)) fun _ => .bind (.setPc _) fun _ => .addCycles _

end

/-- Each effect in the common ending writes only what `writers` lists for its mnemonic. -/
theorem WritesOnly.plainEffect (m : Mnemonic) (mode : AddrMode) : WritesOnly (written m) (plainEffect m mode) := by
  cases m with
  | lda | ldx | ldy => exact .load (by decide) (by decide)
  | sta | stx | sty => exact .store (by decide) (by decide)
  | tax | tay | txa | tya | tsx => exact .transfer (by decide) (by decide)
  | txs => exact .bind (.pure (.getReg _)) fun _ => .setReg (by decide)
  | adc | sbc => exact .accumulate (by decide) fun _ _ =>
      .updateFlags (hc := absurd (by decide)) (hv := absurd (by decide)) (hzn := absurd (by decide))
  | and | ora | eor => exact .accumulate (by decide) fun _ _ => .setNZ (by decide)
  | cmp | cpx | cpy => exact .compareReg (by decide) (by decide)
  | bit => exact .bitTest (by decide) (by decide)
  | inc | dec => exact .modifyMem (by decide) (by decide) (by decide)
  | inx | iny | dex | dey => exact .modifyReg (by decide) (by decide)
  | asl | lsr | rol | ror => exact .shiftAny (by decide) (by decide) (by decide) (by decide) (by decide)
  | pha => exact .bind (.pure (.getReg _)) fun _ => .push (by decide) (by decide)
  | php => exact .bind (.pure .getFlags) fun _ => .push (by decide) (by decide)
  | pla => exact .bind (.pull (by decide)) fun _ => .bind (.setReg (by decide)) fun _ => .setNZ (by decide)
  | plp => exact .bind (.pull (by decide)) fun _ =>
      .pulledFlags (by decide) (by decide) (by decide) (by decide) (by decide)
  | clc | sec =>
    dsimp only [Machine.plainEffect]
    exact .updateFlags (hc := absurd (by decide))
  | cli | sei =>
    dsimp only [Machine.plainEffect]
    exact .updateFlags (hi := absurd (by decide))
  | cld | sed =>
    dsimp only [Machine.plainEffect]
    exact .updateFlags (hd := absurd (by decide))
  | clv =>
    dsimp only [Machine.plainEffect]
    exact .updateFlags (hv := absurd (by decide))
  | nop | bcc | bcs | beq | bne | bmi | bpl | bvc | bvs | jmp | jsr | rts | rti | brk => exact .pure (.pure _)

/-- Each control-flow effect writes only what `writers` lists for its mnemonic. -/
theorem WritesOnly.controlEffect (m : Mnemonic) (mode : AddrMode) (base : Nat) :
    WritesOnly (written m) (controlEffect m mode base) := by
  cases m with
  | jmp => exact .bind (.pure (.ea _)) fun _ => .bind (.setPc _) fun _ => .addCycles _
  | jsr => exact .bind (.pure .getPc) fun _ => .bind (.pure (.addr16 _)) fun _ =>
      .bind (.push16 (by decide) (by decide)) fun _ => .bind (.setPc _) fun _ => .addCycles _
  | rts => exact .bind (.pull16 (by decide)) fun _ => .bind (.pure (.addr16 _)) fun _ =>
      .bind (.setPc _) fun _ => .addCycles _
  | rti => exact .bind (.bind (.pull (by decide)) fun _ =>
      .bind (.pulledFlags (by decide) (by decide) (by decide) (by decide) (by decide)) fun _ =>
        .bind (.pull16 (by decide)) fun _ => .setPc _) fun _ => .addCycles _
  | brk => exact .bind (.pure .getPc) fun _ => .bind (.pure (.addr16 _)) fun _ =>
      .bind (.enterInterrupt (by decide) (by decide) (by decide)) fun _ => .addCycles _
  | _ => exact .branch

/-- An instruction writes only what `writers` lists for its mnemonic. -/
theorem WritesOnly.effect (i : Instr) : WritesOnly (written i.mnemonic) (effect i) := by
  unfold Machine.effect
  split
  · exact .controlEffect _ _ _
  · exact .bind (.plainEffect _ _) fun _ => .advance

/-- A shift of memory does not write A. -/
theorem WritesOnly.memoryShift {i : Instr} (hm : i.mnemonic ∈ [.asl, .lsr, .rol, .ror]) (hmode : i.mode ≠ .implied) :
    WritesOnly (· ≠ .reg .a) (Machine.effect i) := by
  have hc : i.isControlFlow = false := by
    unfold Instr.isControlFlow
    revert hm
    generalize i.mnemonic = m
    cases m <;> decide
  obtain ⟨op, hop⟩ : ∃ op, Machine.plainEffect i.mnemonic i.mode = Machine.shiftMem op i.mode := by
    simp only [List.mem_cons, List.not_mem_nil, or_false] at hm
    rcases hm with h | h | h | h <;> rw [h] <;> exact ⟨_, shiftAny_mem _ _ hmode⟩
  rw [Machine.effect, if_neg (by simp [hc]), hop]
  exact .bind (.shiftMem nofun nofun nofun nofun) fun _ => .advance

/-- A piece that an instruction's mnemonic does not write is as before. -/
theorem exec_keeps {i : Instr} {s t : State} (h : exec i s = .next t) (p : Piece) (hp : i.mnemonic ∉ writers p) :
    p.of t = p.of s :=
  Keep.exec h (WritesOnly.effect i p hp)

/-- Settles O41: piece by piece, each with its writers. -/
theorem onlyListedInstructionsWrite : Obligations.OnlyListedInstructionsWrite := by
  intro i s t h
  have keeps := exec_keeps h
  refine ⟨fun hm => Content.byte.inj (keeps (.reg .a) hm), fun hm hmode => ?_,
    fun hm => Content.byte.inj (keeps (.reg .x) hm), fun hm => Content.byte.inj (keeps (.reg .y) hm),
    fun hm => Content.byte.inj (keeps (.reg .sp) hm), fun hm => Content.bit.inj (keeps .d hm),
    fun hm => Content.bit.inj (keeps .i hm), fun hm => Content.bit.inj (keeps .c hm),
    fun hm => Content.bit.inj (keeps .v hm), fun hm => Content.bits.inj (keeps .zn ?_),
    fun hm => Content.memory.inj (keeps .ram hm), fun hm => Content.bus.inj (keeps .bus hm)⟩
  · have hkeep : Keep (Piece.reg .a).of (effect i) := WritesOnly.memoryShift hm hmode _ fun hne => hne rfl
    exact Content.byte.inj (hkeep.exec h)
  · revert hm
    generalize i.mnemonic = m
    cases m <;> decide

/-! ## What no instruction reads -/

/-- `t` with the latches, the stored B flag, the host's channels and the run loop's and timers' state of `u`. -/
def withHidden (u t : State) : State :=
  { t with
    irqPending := u.irqPending, nmiPending := u.nmiPending, keyPending := u.keyPending
    cancelRequested := u.cancelRequested, batch := u.batch, timers := u.timers, remainder := u.remainder
    frameRemaining := u.frameRemaining, repaintRequests := u.repaintRequests
    flags := { t.flags with b := u.flags.b } }

/-- A result with the hidden part of its state replaced. -/
def resultWithHidden (u : State) {α : Type} : EStateM.Result FaultKind State α → EStateM.Result FaultKind State α
  | .ok a t => .ok a (withHidden u t)
  | .error k t => .error k (withHidden u t)

/-- `x` neither reads nor writes the hidden part of the state: replacing it before `x` is replacing it after. -/
def Blind (u : State) {α : Type} (x : Exec α) : Prop :=
  ∀ s, x.run (withHidden u s) = resultWithHidden u (x.run s)

section
variable {u : State} {α β : Type} {mode : AddrMode}

theorem Blind.bind {x : Exec α} {f : α → Exec β} (hx : Blind u x) (hf : ∀ a, Blind u (f a)) : Blind u (x >>= f) := by
  intro s
  rw [Exec.run_bind, Exec.run_bind, hx s]
  cases x.run s with
  | ok a t => exact hf a t
  | error k t => rfl

theorem Blind.pure (a : α) : Blind u (pure a : Exec α) := fun _ => rfl
theorem Blind.raise (k : FaultKind) : Blind u (raise k : Exec α) := fun _ => rfl
theorem Blind.getPc : Blind u getPc := fun _ => rfl
theorem Blind.setPc (a : Addr) : Blind u (setPc a) := fun _ => rfl
theorem Blind.addCycles (n : Nat) : Blind u (addCycles n) := fun _ => rfl
theorem Blind.getReg (r : Reg) : Blind u (getReg r) := fun _ => by cases r <;> rfl
theorem Blind.setReg (r : Reg) (v : Byte) : Blind u (setReg r v) := fun _ => by cases r <;> rfl

theorem Blind.ite {p : Prop} [Decidable p] {x y : Exec α} (hx : Blind u x) (hy : Blind u y) :
    Blind u (if p then x else y) := by split <;> assumption

theorem Blind.updateFlags {g : Flags → Flags} (hg : ∀ f b, g { f with b := b } = { g f with b := b }) :
    Blind u (updateFlags g) := fun s => by
  change EStateM.Result.ok () ((withHidden u s).withFlags (g { s.flags with b := u.flags.b })) = _
  rw [hg]
  rfl

/-- The flags are read whole, but B does not enter into what is done with them. -/
theorem Blind.getFlags_bind {k : Flags → Exec α} (hb : ∀ f b, k { f with b := b } = k f) (hk : ∀ f, Blind u (k f)) :
    Blind u (getFlags >>= k) := fun s => by
  change (k { s.flags with b := u.flags.b }).run (withHidden u s) = _
  rw [hb]
  exact hk s.flags s

theorem Blind.addr16 (v : Int) : Blind u (addr16 v) := fun _ => by
  simp only [EStateM.run, Machine.addr16, apply_ite (resultWithHidden u)]
  rfl

/-- What a read gives does not depend on the hidden state. -/
theorem peek_withHidden (s : State) (a : Addr) : (withHidden u s).peek a = s.peek a := by
  unfold State.peek
  cases region a with
  | via id o => cases id <;> rfl
  | _ => rfl

theorem Blind.memRead (a : Addr) : Blind u (memRead a) := fun s => by
  by_cases h : Readable s a
  · rw [memRead_readable h, memRead_readable (s := withHidden u s) h, peek_withHidden]
    rfl
  · rw [memRead_unreadable h, memRead_unreadable (s := withHidden u s) h]
    rfl

theorem Blind.memWrite (a : Addr) (v : Byte) : Blind u (memWrite a v) := fun s => by
  simp only [EStateM.run, Machine.memWrite]
  cases region a with
  | ignored =>
    simp only [apply_ite (resultWithHidden u)]
    rfl
  | via id o => cases id <;> rfl
  | _ => rfl

theorem Blind.push (v : Byte) : Blind u (push v) :=
  .bind (.getReg _) fun _ => .bind (.memWrite _ _) fun _ => .setReg _ _

theorem Blind.pull : Blind u pull := .bind (.getReg _) fun _ => .bind (.setReg _ _) fun _ => .memRead _

theorem Blind.push16 (v : Addr) : Blind u (push16 v) := .bind (.push _) fun _ => .push _

theorem Blind.pull16 : Blind u pull16 := .bind .pull fun _ => .bind .pull fun _ => .pure _

theorem Blind.read16 (a : Addr) : Blind u (read16 a) :=
  .bind (.memRead _) fun _ => .bind (.addr16 _) fun _ => .bind (.memRead _) fun _ => .pure _

theorem Blind.zeroPagePointer (z : Byte) : Blind u (zeroPagePointer z) :=
  .bind (.memRead _) fun _ => .bind (.memRead _) fun _ => .pure _

theorem Blind.ea : Blind u (ea mode) := by
  cases mode with
  | implied => exact .raise _
  | immediate _ => exact .bind .getPc fun _ => .addr16 _
  | zeroPage _ | absolute _ => exact .pure _
  | zeroPageX _ | zeroPageY _ => exact .bind (.getReg _) fun _ => .pure _
  | absoluteX _ | absoluteY _ => exact .bind (.getReg _) fun _ => .addr16 _
  | indirect _ => exact .bind (.memRead _) fun _ => .bind (.memRead _) fun _ => .pure _
  | indexedIndirect _ => exact .bind (.getReg _) fun _ => .zeroPagePointer _
  | indirectIndexed _ => exact .bind (.zeroPagePointer _) fun _ => .bind (.getReg _) fun _ => .addr16 _

theorem Blind.operand : Blind u (operand mode) := by
  cases mode with
  | implied => exact .raise _
  | immediate _ => exact .pure _
  | _ => exact .bind .ea fun _ => .memRead _

/-! The effect of each family of instructions. -/

theorem Blind.setNZ (v : Byte) : Blind u (Machine.updateFlags (setNZ v)) := .updateFlags fun _ _ => rfl

theorem Blind.load {r : Reg} : Blind u (load r mode) :=
  .bind .operand fun _ => .bind (.setReg _ _) fun _ => .setNZ _

theorem Blind.store {r : Reg} : Blind u (store r mode) :=
  .bind .ea fun _ => .bind (.getReg _) fun _ => .memWrite _ _

theorem Blind.transfer {src dst : Reg} : Blind u (transfer src dst) :=
  .bind (.getReg _) fun _ => .bind (.setReg _ _) fun _ => .setNZ _

theorem Blind.accumulate {op : Byte → Byte → Flags → Byte × Flags}
    (hop : ∀ a m f b, op a m { f with b := b } = ((op a m f).1, { (op a m f).2 with b := b })) :
    Blind u (accumulate op mode) :=
  .bind .operand fun v => .bind (.getReg _) fun a =>
    .getFlags_bind (fun f b => by rw [hop]) fun _ => .bind (.setReg _ _) fun _ =>
      .updateFlags fun f b => by rw [hop]

theorem Blind.compareReg {r : Reg} : Blind u (compareReg r mode) :=
  .bind .operand fun _ => .bind (.getReg _) fun _ => .updateFlags fun _ _ => rfl

theorem Blind.bitTest : Blind u (bitTest mode) :=
  .bind .operand fun _ => .bind (.getReg _) fun _ => .updateFlags fun _ _ => rfl

theorem Blind.modifyMem {op : Byte → Byte} : Blind u (modifyMem op mode) :=
  .bind .ea fun _ => .bind (.memRead _) fun _ => .bind (.memWrite _ _) fun _ => .setNZ _

theorem Blind.modifyReg {op : Byte → Byte} {r : Reg} : Blind u (modifyReg op r) :=
  .bind (.getReg _) fun _ => .bind (.setReg _ _) fun _ => .setNZ _

theorem Blind.shiftMem {op : Shift} : Blind u (shiftMem op mode) :=
  .bind .ea fun _ => .bind (.memRead _) fun _ => .getFlags_bind (fun _ _ => rfl) fun _ =>
    .bind (.memWrite _ _) fun _ => .updateFlags fun _ _ => rfl

theorem Blind.shiftAcc {op : Shift} : Blind u (shiftAcc op) :=
  .bind (.getReg _) fun _ => .getFlags_bind (fun _ _ => rfl) fun _ => .bind (.setReg _ _) fun _ =>
    .updateFlags fun _ _ => rfl

theorem Blind.shiftAny {op : Shift} : Blind u (shiftAny op mode) := by
  cases mode with
  | implied => exact .shiftAcc
  | _ => exact .shiftMem

theorem Blind.branch {base : Nat} {cond : Flags → Bool} {off8 : Byte}
    (hcond : ∀ f b, cond { f with b := b } = cond f) : Blind u (branch base cond off8) :=
  .bind .getPc fun _ => .bind (.addr16 _) fun _ => .getFlags_bind (fun f b => by rw [hcond]) fun _ => .ite
    (.bind (.addr16 _) fun _ => .bind (.addCycles _) fun _ => .setPc _)
    (.bind (.addCycles _) fun _ => .setPc _)

theorem Blind.enterInterrupt {ret : Addr} {b : Bool} {vector : Addr} : Blind u (enterInterrupt ret b vector) :=
  .bind (.push16 _) fun _ => .getFlags_bind (fun _ _ => rfl) fun _ => .bind (.push _) fun _ =>
    .bind (.updateFlags fun _ _ => rfl) fun _ => .bind (.read16 _) fun _ => .setPc _

theorem Blind.returnFromInterrupt : Blind u returnFromInterrupt :=
  .bind .pull fun _ => .bind (.updateFlags fun _ _ => rfl) fun _ => .bind .pull16 fun _ => .setPc _

theorem Blind.advance {len base : Nat} : Blind u (advance len base) :=
  .bind .getPc fun _ => .bind (.addr16 _) fun _ => .bind (.setPc _) fun _ => .addCycles _

/-- Every effect in the common ending is blind to the hidden state. -/
theorem Blind.plainEffect (m : Mnemonic) : Blind u (plainEffect m mode) := by
  cases m with
  | lda | ldx | ldy => exact .load
  | sta | stx | sty => exact .store
  | tax | tay | txa | tya | tsx => exact .transfer
  | txs => exact .bind (.getReg _) fun _ => .setReg _ _
  | adc | sbc | and | ora | eor => exact .accumulate fun _ _ _ _ => rfl
  | cmp | cpx | cpy => exact .compareReg
  | bit => exact .bitTest
  | inc | dec => exact .modifyMem
  | inx | iny | dex | dey => exact .modifyReg
  | asl | lsr | rol | ror => exact .shiftAny
  | pha => exact .bind (.getReg _) fun _ => .push _
  | php => exact .getFlags_bind (fun _ _ => rfl) fun _ => .push _
  | pla => exact .bind .pull fun _ => .bind (.setReg _ _) fun _ => .setNZ _
  | plp => exact .bind .pull fun _ => .updateFlags fun _ _ => rfl
  | clc | sec | cli | sei | cld | sed | clv =>
    dsimp only [Machine.plainEffect]
    exact .updateFlags fun _ _ => rfl
  | nop | bcc | bcs | beq | bne | bmi | bpl | bvc | bvs | jmp | jsr | rts | rti | brk => exact .pure _

/-- Every control-flow effect is blind to the hidden state: no branch condition reads B. -/
theorem Blind.controlEffect (m : Mnemonic) (base : Nat) : Blind u (controlEffect m mode base) := by
  cases m with
  | jmp => exact .bind .ea fun _ => .bind (.setPc _) fun _ => .addCycles _
  | jsr => exact .bind .getPc fun _ => .bind (.addr16 _) fun _ => .bind (.push16 _) fun _ => .bind (.setPc _) fun _ =>
      .addCycles _
  | rts => exact .bind .pull16 fun _ => .bind (.addr16 _) fun _ => .bind (.setPc _) fun _ => .addCycles _
  | rti => exact .bind .returnFromInterrupt fun _ => .addCycles _
  | brk => exact .bind .getPc fun _ => .bind (.addr16 _) fun _ => .bind .enterInterrupt fun _ => .addCycles _
  | _ => exact .branch fun _ _ => rfl

end

/-- The whole effect of an instruction is blind to the hidden state. -/
theorem Blind.effect (u : State) (i : Instr) : Blind u (effect i) := by
  unfold Machine.effect
  split
  · exact .controlEffect _ _
  · exact .bind (.plainEffect _) fun _ => .advance

/-- Settles O42: an instruction's effect is blind to the hidden state, and neither StuckCheck nor a fault's report reads
it. -/
theorem instructionsIgnoreRunLoopState : Obligations.InstructionsIgnoreRunLoopState := by
  intro i s u g hg
  obtain rfl : g = withHidden u := funext hg
  have hb : (effect i).run (withHidden u s) = resultWithHidden u ((effect i).run s) := Blind.effect u i s
  rw [exec_effect, exec_effect]
  rcases perform_cases i (effect i) s with ⟨t, he, hs, h⟩ | ⟨t, he, hs, h⟩ | ⟨k, t, he, h⟩ <;> rw [he] at hb <;> rw [h]
  · exact perform_ok i _ _ _ hb hs
  · rw [perform, hb]
    exact if_pos hs
  · exact perform_error i _ _ _ _ hb

/-! ## The status byte -/

/-- The status byte as a sum: its bits are disjoint (10_state.md R37). -/
theorem statusByte_toNat (b : Bool) (f : Flags) : (statusByte b f).toNat =
    128 * f.n.toNat + 64 * f.v.toNat + 32 + 16 * b.toNat + 8 * f.d.toNat + 4 * f.i.toNat + 2 * f.z.toNat
      + f.c.toNat := by
  obtain ⟨c, z, i, d, stored, v, n⟩ := f
  revert b c z i d stored v n
  decide

/-- The flags of a pulled byte as its binary digits (10_state.md R38). -/
theorem pulledFlags_eq (s : Byte) (g : Flags) : pulledFlags s g =
    { n := decide (s.toNat / 128 % 2 = 1), v := decide (s.toNat / 64 % 2 = 1), d := decide (s.toNat / 8 % 2 = 1)
      i := decide (s.toNat / 4 % 2 = 1), z := decide (s.toNat / 2 % 2 = 1), c := decide (s.toNat % 2 = 1)
      b := g.b } := by
  simp [pulledFlags, BitVec.getLsbD, Nat.testBit_eq_decide_div_mod_eq]

/-- Pulling a pushed status byte restores the six flags. -/
theorem pulledFlags_statusByte (b : Bool) (f g : Flags) : pulledFlags (statusByte b f) g = { f with b := g.b } := by
  have digit : ∀ (x : Bool) (n : Nat), n = x.toNat → decide (n = 1) = x := by
    rintro (_ | _) n rfl <;> rfl
  have le := Bool.toNat_le
  have hn := le f.n
  have hv := le f.v
  have hb := le b
  have hd := le f.d
  have hi := le f.i
  have hz := le f.z
  have hc := le f.c
  rw [pulledFlags_eq, statusByte_toNat, Flags.mk.injEq]
  refine ⟨?_, ?_, ?_, ?_, rfl, ?_, ?_⟩ <;> refine digit _ _ ?_ <;> omega

/-- Settles O32: the byte as a sum, the round trip, and the pulled flags as binary digits. -/
theorem statusByteLayout : Obligations.StatusByteLayout := fun f g b =>
  ⟨statusByte_toNat b f, pulledFlags_statusByte b f g, fun s => pulledFlags_eq s g⟩

end Sys2Proof.Machine

/-! The family `20_memory`: the address decoder, what a write changes, 16-bit reads, the stack, and what holds of every
step. -/

namespace Sys2Proof.Machine

open Sys2Proof

/-! ## What an instruction costs -/

/-- Whenever `x` answers, it has added from `lo` to `hi` cycles. -/
def Costs (lo hi : Nat) {α : Type} (x : Exec α) : Prop :=
  ∀ s a t, x.run s = .ok a t → s.cycleCount + lo ≤ t.cycleCount ∧ t.cycleCount ≤ s.cycleCount + hi

section
variable {α β : Type} {lo hi : Nat}

/-- What keeps cycleCount may come before what adds cycles. -/
theorem Costs.after {x : Exec α} {g : α → Exec β} (hx : Keep State.cycleCount x) (hg : ∀ a, Costs lo hi (g a)) :
    Costs lo hi (x >>= g) := by
  intro s b t h
  rw [Exec.run_bind] at h
  cases hr : x.run s with
  | ok a s' => rw [hr] at h; exact hx s a s' hr ▸ hg a s' b t h
  | error k s' => rw [hr] at h; cases h

/-- What keeps cycleCount may come after what adds cycles. -/
theorem Costs.before {x : Exec α} {g : α → Exec β} (hx : Costs lo hi x) (hg : ∀ a, Keep State.cycleCount (g a)) :
    Costs lo hi (x >>= g) := by
  intro s b t h
  rw [Exec.run_bind] at h
  cases hr : x.run s with
  | ok a s' => rw [hr] at h; exact hg a s' b t h ▸ hx s a s' hr
  | error k s' => rw [hr] at h; cases h

theorem Costs.ite {p : Prop} [Decidable p] {x y : Exec α} (hx : Costs lo hi x) (hy : Costs lo hi y) :
    Costs lo hi (if p then x else y) := by
  split <;> assumption

theorem Costs.addCycles {n : Nat} (hlo : lo ≤ n) (hhi : n ≤ hi) : Costs lo hi (addCycles n) := by
  intro s a t h
  cases h
  exact ⟨Nat.add_le_add_left hlo _, Nat.add_le_add_left hhi _⟩

theorem Costs.mono {x : Exec α} {hi' : Nat} (hx : Costs lo hi x) (h : hi ≤ hi') : Costs lo hi' x := fun s a t ht =>
  ⟨(hx s a t ht).1, (hx s a t ht).2.trans (Nat.add_le_add_left h _)⟩

end

theorem Plain.keepsCycleCount {α : Type} {x : Exec α} (h : Plain x) : Keep State.cycleCount x := fun s a t ht =>
  ((h s).1 a t ht).2.2

theorem enterInterrupt_keepsCycleCount (ret : Addr) (b : Bool) (vector : Addr) :
    Keep State.cycleCount (enterInterrupt ret b vector) :=
  .bind (Plain.push16 _).keepsCycleCount fun _ => .bind (.pure .getFlags) fun _ =>
    .bind (Plain.push _).keepsCycleCount fun _ => .bind (.updateFlags fun _ => rfl) fun _ =>
      .bind (.pure (.read16 _)) fun _ => .setPc fun _ => rfl

theorem returnFromInterrupt_keepsCycleCount : Keep State.cycleCount returnFromInterrupt :=
  .bind Plain.pull.keepsCycleCount fun _ => .bind (.updateFlags fun _ => rfl) fun _ =>
    .bind Plain.pull16.keepsCycleCount fun _ => .setPc fun _ => rfl

/-- A branch adds its base cost, one more when taken and one more when the target is on another page (30_encoding.md
R119). -/
theorem Costs.branch (base : Nat) (cond : Flags → Bool) (off8 : Byte) :
    Costs base (base + 2) (branch base cond off8) :=
  .after (.pure .getPc) fun _ => .after (.pure (.addr16 _)) fun _ => .after (.pure .getFlags) fun _ => .ite
    (.after (.pure (.addr16 _)) fun _ =>
      .before (.addCycles (by omega) (by split <;> omega)) fun _ => .setPc fun _ => rfl)
    (.before (.addCycles (by omega) (by omega)) fun _ => .setPc fun _ => rfl)

/-- The common ending adds the base cost (40_load_store_transfer.md R130). -/
theorem Costs.advance (len base : Nat) : Costs base base (advance len base) :=
  .after (.pure .getPc) fun _ => .after (.pure (.addr16 _)) fun _ => .after (.setPc fun _ => rfl) fun _ =>
    .addCycles le_rfl le_rfl

theorem Costs.controlEffect (m : Mnemonic) (mode : AddrMode) (base : Nat) :
    Costs base (base + 2) (controlEffect m mode base) := by
  have hend : Costs base (base + 2) (Machine.addCycles base) := .addCycles (by omega) (by omega)
  have hset : ∀ p, Keep State.cycleCount (setPc p) := fun _ => .setPc fun _ => rfl
  cases m with
  | jmp => exact .after (.pure (.ea _)) fun _ => .after (hset _) fun _ => hend
  | jsr => exact .after (.pure .getPc) fun _ => .after (.pure (.addr16 _)) fun _ =>
      .after (Plain.push16 _).keepsCycleCount fun _ => .after (hset _) fun _ => hend
  | rts => exact .after Plain.pull16.keepsCycleCount fun _ => .after (.pure (.addr16 _)) fun _ =>
      .after (hset _) fun _ => hend
  | rti => exact .after returnFromInterrupt_keepsCycleCount fun _ => hend
  | brk => exact .after (.pure .getPc) fun _ => .after (.pure (.addr16 _)) fun _ =>
      .after (enterInterrupt_keepsCycleCount _ _ _) fun _ => hend
  | _ => exact .branch _ _ _

/-- An instruction's part before the common ending writes neither PC nor cycleCount. -/
theorem Plain.plainEffect_of_instr (i : Instr) : Plain (Machine.plainEffect i.mnemonic i.mode) := by
  refine .plainEffect _ _ fun h => mode_ne_implied i ?_
  revert h
  generalize i.mnemonic = m
  cases m <;> decide

/-- An instruction adds its base cost, and at most two cycles more (a branch). -/
theorem Costs.effect (i : Instr) : Costs i.baseCycles (i.baseCycles + 2) (effect i) := by
  unfold Machine.effect
  split
  · exact .controlEffect _ _ _
  · exact .after (Plain.plainEffect_of_instr i).keepsCycleCount fun _ => (Costs.advance _ _).mono (by omega)

theorem two_le_baseCycles (i : Instr) : 2 ≤ i.baseCycles := by
  unfold Instr.baseCycles
  split <;> decide

/-- An instruction that completes ran its whole effect. -/
theorem effect_of_exec {i : Instr} {s t : State} (h : exec i s = .next t) : (effect i).run s = .ok () t := by
  rcases exec_cases i s with ⟨u, hu, he, -⟩ | ⟨u, hu, -⟩ | ⟨k, u, hu, -⟩ <;> rw [hu] at h <;> cases h
  exact he

/-- Every dispatch adds at least 2 cycles (60_exceptions.md R259). -/
theorem dispatch_cycles {s t : State} (h : dispatch s = .next t) : s.cycleCount + 2 ≤ t.cycleCount := by
  rcases dispatch_cases s t h with ⟨-, rfl⟩ | ⟨-, -, -, rfl⟩ | ⟨i, -, he⟩
  · exact Nat.add_le_add_left (by decide : 2 ≤ 7) _
  · exact Nat.add_le_add_left (by decide : 2 ≤ 7) _
  · calc s.cycleCount + 2 ≤ s.cycleCount + i.baseCycles := Nat.add_le_add_left (two_le_baseCycles i) _
      _ ≤ t.cycleCount := (Costs.effect i s () t (effect_of_exec he)).1

/-! ## What holds of every step -/

/-- Settles O50, by the cases of a step: the dispatch keeps the frame and adds cycles, and its accounting either leaves
the batch open or ends it. -/
theorem stepWideRules : Obligations.StepWideRules := by
  intro s t h
  rcases step_cases s t h with ⟨-, hb, -, rfl⟩ | ⟨-, u, b, hd, -, -, hend⟩
  · exact ⟨⟨rfl, rfl, rfl, rfl⟩, fun hne => absurd hb hne, rfl, .inl ⟨rfl, rfl⟩⟩
  rw [openBatch_only] at hd
  obtain ⟨f, hirq, hnmi⟩ := dispatch_frame _ _ hd
  have hc := dispatch_cycles hd
  rcases hend with ⟨-, rfl⟩ | ⟨-, rfl⟩
  · have kept := batchEnd_only (b.used + (u.cycleCount - s.cycleCount)) u
    exact ⟨⟨(congrArg State.osRom kept).trans f.osRom, (congrArg State.banks kept).trans f.banks,
        (congrArg State.timers kept).trans f.timers, (congrArg State.cfg kept).trans f.cfg⟩,
      fun hne => absurd (congrArg State.batch kept) hne, (congrArg State.cancelRequested kept).trans f.cancelRequested,
      .inr (hc.trans_eq (congrArg State.cycleCount kept).symm)⟩
  · exact ⟨⟨f.osRom, f.banks, f.timers, f.cfg⟩,
      fun _ => ⟨hirq, hnmi, f.keyPending, f.remainder, f.frameRemaining, f.repaintRequests⟩, f.cancelRequested, .inr hc⟩

/-! ## The address decoder -/

/-- Every address that no ignored window holds can be read (20_memory.md R66). -/
theorem readable_of_not_ignored (s : State) {a : Addr} (h : region a ≠ .ignored) : Readable s a := fun hr => h hr.2

/-- A read of a region that is no ignored window gives the byte there. -/
theorem memRead_of_region {a : Addr} {r : Region} (s : State) (e : region a = r) (hr : r ≠ .ignored) :
    (memRead a).run s = .ok (s.peek a) s :=
  memRead_readable (readable_of_not_ignored s (e ▸ hr))

/-- The paged-ROM window holds no ignored window. -/
theorem isIgnored_pagedRom {n : Nat} (h : n ≤ 0xBFFF) : isIgnored n = false := by
  rw [Bool.eq_false_iff, Ne, isIgnored_iff]
  omega

/-- Settles O6, region by region. -/
theorem addressDecoderRoutesReads : Obligations.AddressDecoderRoutesReads := by
  intro a s
  simp only [← isIgnored_iff]
  rcases region_cases a with ⟨h, e⟩ | ⟨h, hi, e⟩ | ⟨hi, h1, h2, e⟩ | ⟨hi, h1, h2, e⟩ | ⟨h, e⟩ | ⟨hi, h, -, hs, hu, e⟩ |
    ⟨h1, h2, e⟩
  · rw [if_pos h, memRead_ram a s h]
  · rw [if_neg (by omega), if_pos hi]
    simp [memRead, EStateM.run, State.peek, e]
  · rw [memRead_of_region s e nofun, if_neg (by omega), if_neg (by simp [hi]), if_pos ⟨h1, h2⟩]
    simp only [State.peek, e, State.via]
  · rw [memRead_of_region s e nofun, if_neg (by omega), if_neg (by simp [hi]), if_neg (by omega), if_pos ⟨h1, h2⟩]
    simp only [State.peek, e, State.via]
  · rw [memRead_of_region s e nofun]
    simp only [State.peek, e, h]
    rfl
  · rw [memRead_of_region s e nofun, if_neg (by omega), if_neg (by simp [hi]), if_neg hs, if_neg hu, if_pos h]
    simp only [State.peek, e]
  · rw [memRead_of_region s e nofun, if_neg (by omega), if_neg (by simp [isIgnored_pagedRom h2]), if_neg (by omega),
      if_neg (by omega), if_neg (by omega)]
    simp only [State.peek, e]
    cases bankImage s.selectedBank s.banks <;> rfl

/-- Settles O7, region by region. -/
theorem addressDecoderRoutesWrites : Obligations.AddressDecoderRoutesWrites := by
  intro a v s
  simp only [← isIgnored_iff]
  rcases region_cases a with ⟨h, e⟩ | ⟨h, hi, e⟩ | ⟨hi, h1, h2, e⟩ | ⟨hi, h1, h2, e⟩ | ⟨h, e⟩ | ⟨hi, h, hb, hs, hu, e⟩ |
    ⟨h1, h2, e⟩ <;> simp only [EStateM.run, memWrite, e]
  · rw [if_pos h]
    rfl
  · rw [if_neg (by omega : ¬a.toNat ≤ 0x7FFF), if_pos hi]
  · rw [if_neg (by omega), if_neg (by simp [hi]), if_pos ⟨h1, h2⟩]
    rfl
  · rw [if_neg (by omega), if_neg (by simp [hi]), if_neg (by omega), if_pos ⟨h1, h2⟩]
    rfl
  · simp only [h]
    rfl
  · rw [if_neg (by omega), if_neg (by simp [hi]), if_neg hs, if_neg hu, if_neg hb, if_pos h]
  · rw [if_neg (by omega), if_neg (by simp [isIgnored_pagedRom h2]), if_neg (by omega), if_neg (by omega),
      if_neg (by omega), if_neg (by omega)]

/-! ## What a write changes -/

/-- A byte written to RAM reads back as written. -/
theorem peek_memWrite_ram {a : Addr} {v : Byte} {s t : State} (hwf : s.ram.wf 0x8000 = true) (ha : a.toNat ≤ 0x7FFF)
    (h : (memWrite a v).run s = .ok () t) : t.peek a = v := by
  rw [memWrite_ram a v s ha] at h
  cases h
  simp only [State.peek, region_ram a ha, State.withRam_ram]
  exact Memory.read_write _ _ _ _ hwf

/-- Settles O8: the store lemmas for the decoder, the laws of byte storage for RAM. -/
theorem writeChangesOnlyItsAddress : Obligations.WriteChangesOnlyItsAddress := by
  intro a v s hwf hw
  obtain ⟨t, ht⟩ := (writable_iff s a v).mp hw
  have hframe : PlainFrame s t := (Plain.memWrite a v s).1 () t ht
  refine ⟨⟨t, ht, memWrite_only a v s t ht, hframe.1.ramWf hwf, fun ha => peek_memWrite_ram hwf ha ht⟩, fun n b hn => ?_⟩
  refine ⟨Memory.write_wf _ _ _ _ hwf hn, ?_⟩
  split
  · next h => rw [h]; exact Memory.read_write _ _ _ _ hwf
  · next h => exact Memory.read_write_other _ _ _ _ h

/-! ## The stack -/

/-- Pull16 after Push16: SP comes back, and the two bytes lie at different addresses of page 1, also where SP wraps. -/
theorem pull16_push16 {s t : State} {w : Addr} (hwf : s.ram.wf 0x8000 = true) (h : (push16 w).run s = .ok () t) :
    pull16.run t = .ok w { t with sp := s.sp } := by
  rw [push16_apply] at h
  cases h
  have hsp1 : s.sp - 1 - 1 + 1 = s.sp - 1 := BitVec.sub_add_cancel _ _
  have hsp : s.sp - 1 + 1 = s.sp := BitVec.sub_add_cancel _ _
  have hne : 0x0100 + s.sp.toNat ≠ 0x0100 + (s.sp - 1).toNat := by
    bv_omega
  have hwf1 := Memory.write_wf s.ram 0x8000 (0x0100 + s.sp.toNat) (hiByte w) hwf (by omega)
  rw [pull16_apply]
  simp only [hsp1, hsp, Memory.read_write _ _ _ _ hwf1, Memory.read_write_other _ _ _ _ hne,
    Memory.read_write _ _ _ _ hwf, addrOfBytes_lo_hi]

/-- Settles O9, by what a push and a pull do. -/
theorem stackPushPull : Obligations.StackPushPull := fun s b w hwf =>
  ⟨push_apply b s, pull_apply s, rfl, rfl, _, push16_apply w s, pull16_push16 hwf (push16_apply w s)⟩

/-! ## 16-bit reads -/

/-- Settles O10, by what the two reads and the address between them give. -/
theorem read16IsLittleEndian : Obligations.Read16IsLittleEndian := by
  intro a s
  refine ⟨fun h => ?_, fun h ha h1 => ?_, fun h ha h1 => ?_, fun ha => ?_⟩
  · simp only [read16, Exec.run_bind, memRead_unreadable h]
  · refine ⟨addrOfBytes (s.peek a) (s.peek (a + 1)), ?_, addrOfBytes_toNat _ _⟩
    simp only [read16, Exec.run_bind, memRead_readable h, addr16_next_one a s ha, memRead_readable h1, Exec.run_pure]
  · simp only [read16, Exec.run_bind, memRead_readable h, addr16_next_one a s ha, memRead_unreadable h1]
  · obtain rfl : a = 0xFFFF := BitVec.eq_of_toNat_eq ha
    have h : Readable s 0xFFFF := readable_of_not_ignored s (by decide)
    have herr : (addr16 (((0xFFFF : Addr).toNat : Int) + 1)).run s = .error (.outOfRange 0x10000 none) s :=
      addr16_error 0x10000 s (by decide)
    simp only [read16, Exec.run_bind, memRead_readable h, herr]

end Sys2Proof.Machine

/-! The family `30_encoding`: decode and encode, the opcode table, the illegal opcodes, the fetch, the addressing modes,
and the length and cycles of an instruction. -/

namespace Sys2Proof.Machine

open Sys2Proof

/-! ## Decoding -/

/-- Padding a byte string to two bytes does not change the bytes it has at its start. -/
theorem take_padded (bs : List Byte) {n : Nat} (h2 : n ≤ 2) (hn : n ≤ bs.length) :
    [bs.getD 0 0, bs.getD 1 0].take n = bs.take n := by
  match n, bs with
  | 0, _ => rfl
  | 1, _ :: _ => rfl
  | 2, _ :: _ :: _ => rfl

theorem operandBytes_length (i : Instr) : i.mode.operandBytes.length = i.length - 1 := by
  rw [← encode_length]
  rfl

theorem length_sub_one_le_two (i : Instr) : i.length - 1 ≤ 2 := Nat.sub_le_sub_right (length_pos i).2 1

/-- The decoder's table reads no operand byte beyond the instruction's length: two operand strings that agree up to there
give one instruction. -/
theorem decodeOpcode_congr {op b1 b2 c1 c2 : Byte} {i : Instr} (h : decodeOpcode op b1 b2 = some i)
    (hc : [c1, c2].take (i.length - 1) = [b1, b2].take (i.length - 1)) : decodeOpcode op c1 c2 = some i := by
  have hlen : (decodeOpcode op c1 c2).map Instr.length = some i.length := by
    rw [(decodeOpcode_shape op c1 c2).2, ← (decodeOpcode_shape op b1 b2).2, h]
    rfl
  obtain ⟨j, hj, hji⟩ := Option.map_eq_some_iff.mp hlen
  have hbytes : encode j = encode i := by
    rw [encode, encode, opcode_of_decodeOpcode hj, opcode_of_decodeOpcode h, operandBytes_of_decodeOpcode hj,
      operandBytes_of_decodeOpcode h, hji, hc]
  rw [hj, encode_injective hbytes]

/-- The table's answer for the bytes of an instruction, whatever follows them. -/
theorem decodeOpcode_append (i : Instr) (rest : List Byte) :
    decodeOpcode i.opcode ((i.mode.operandBytes ++ rest).getD 0 0) ((i.mode.operandBytes ++ rest).getD 1 0) = some i := by
  have h2 := length_sub_one_le_two i
  have hlen := operandBytes_length i
  refine decodeOpcode_congr (decodeOpcode_opcode i) ?_
  rw [take_padded _ h2 (by simp [hlen]), AddrMode.low, AddrMode.high, take_padded _ h2 hlen.ge,
    List.take_append_of_le_length hlen.ge]

theorem decode_encode_append (i : Instr) (rest : List Byte) : decode (encode i ++ rest) = .instr i rest := by
  have hlen := operandBytes_length i
  have hpos := (length_pos i).1
  rw [encode, List.cons_append, decode_cons (decodeOpcode_append i rest),
    if_pos (by rw [List.length_append, hlen]; omega), ← hlen, List.drop_left]

/-- What decodes begins with the bytes of what it decodes to: the table takes the opcode and the operand bytes as they
stand, and the decoder leaves the rest. -/
theorem eq_encode_append_of_decode {bs : List Byte} {i : Instr} {rest : List Byte} (h : decode bs = .instr i rest) :
    bs = encode i ++ rest := by
  cases bs with
  | nil => cases h
  | cons op bs =>
    rw [decode] at h
    split at h
    · cases h
    · next j hj =>
      split at h
      · next hfit =>
        cases h
        rw [encode, opcode_of_decodeOpcode hj, operandBytes_of_decodeOpcode hj,
          take_padded bs (length_sub_one_le_two _) (by omega), List.cons_append, List.take_append_drop]
      · cases h

/-- Settles O2: one direction is the table read at an instruction's own bytes, the other the bytes of the table's answer. -/
theorem decodeEncodeAgree : Obligations.DecodeEncodeAgree :=
  ⟨fun i rest _ => decode_encode_append i rest, fun _ _ _ => eq_encode_append_of_decode⟩

/-! ## The opcode table -/

theorem loByte_eq (a : Addr) : loByte a = BitVec.ofNat 8 (a.toNat % 256) := by
  apply BitVec.eq_of_toNat_eq
  rw [loByte, BitVec.extractLsb'_toNat]
  simp

theorem hiByte_eq (a : Addr) : hiByte a = BitVec.ofNat 8 (a.toNat / 256) := by
  apply BitVec.eq_of_toNat_eq
  rw [hiByte, BitVec.extractLsb'_toNat, Nat.shiftRight_eq_div_pow]
  simp

/-- A mode with its operand field read from the operand bytes `b1` and `b2`. -/
def withOperandBytes (m : AddrMode) (b1 b2 : Byte) : AddrMode :=
  match m with
  | .implied => .implied
  | .immediate _ => .immediate b1
  | .zeroPage _ => .zeroPage b1
  | .zeroPageX _ => .zeroPageX b1
  | .zeroPageY _ => .zeroPageY b1
  | .absolute _ => .absolute (addrOfBytes b1 b2)
  | .absoluteX _ => .absoluteX (addrOfBytes b1 b2)
  | .absoluteY _ => .absoluteY (addrOfBytes b1 b2)
  | .indirect _ => .indirect (addrOfBytes b1 b2)
  | .indexedIndirect _ => .indexedIndirect b1
  | .indirectIndexed _ => .indirectIndexed b1

/-- A mode's operand field is what its own operand bytes give. -/
theorem withOperandBytes_low_high (m : AddrMode) : withOperandBytes m m.low m.high = m := by
  cases m with
  | absolute a | absoluteX a | absoluteY a | indirect a => exact congrArg _ (addrOfBytes_lo_hi a)
  | _ => rfl

/-- What the opcode table says of an instruction: opcode, mnemonic and base cycles. -/
def tableRow (i : Instr) : Byte × Mnemonic × Nat := (i.opcode, i.mnemonic, i.baseCycles)

/-- A list of rows is one of mode `m` when every row is what its opcode decodes to, in mode `m` with any operand. -/
theorem exists_instr_of_mem_rows {m : AddrMode} {rows : List (Byte × Mnemonic × Nat)} {row : Byte × Mnemonic × Nat}
    (hrows : ∀ b1 b2, rows.map (fun r => (decodeOpcode r.1 b1 b2).map fun i => (i.mode, tableRow i))
      = rows.map fun r => some (withOperandBytes m b1 b2, r)) (h : row ∈ rows) :
    ∃ i : Instr, i.mode = m ∧ tableRow i = row := by
  obtain ⟨i, -, hi⟩ := Option.map_eq_some_iff.mp (List.map_inj_left.mp (hrows m.low m.high) row h)
  rw [withOperandBytes_low_high, Prod.mk.injEq] at hi
  exact ⟨i, hi⟩

/-- Settles O60. From an instruction to its row, constructor by constructor; from a row to an instruction, by decoding the
row's opcode with the operand bytes of the mode. -/
theorem opcodeTableRows : Obligations.OpcodeTableRows := by
  refine ⟨fun m op mn cycles => ⟨?_, fun h => ?_⟩, fun i => rfl, fun i => ?_⟩
  · rintro ⟨i, rfl, rfl, rfl, rfl⟩
    cases i <;> exact List.mem_of_elem_eq_true rfl
  · suffices ∃ i : Instr, i.mode = m ∧ tableRow i = (op, mn, cycles) by
      simpa only [tableRow, Prod.mk.injEq] using this
    cases m <;> exact exists_instr_of_mem_rows (fun _ _ => rfl) h
  · rw [encode]
    cases i.mode <;> simp only [AddrMode.operandBytes, loByte_eq, hiByte_eq]

/-! ## Illegal opcodes -/

/-- Settles O1, byte string by byte string. -/
theorem specWordsDecode : Obligations.SpecWordsDecode := by
  unfold Obligations.SpecWordsDecode
  decide

/-- An opcode byte is illegal whatever the operand bytes, or with none of them. -/
theorem opcodeLength_eq_none_iff (op b1 b2 : Byte) : opcodeLength op = none ↔ decodeOpcode op b1 b2 = none := by
  rw [opcodeLength, ← (decodeOpcode_shape op b1 b2).2, Option.map_eq_none_iff]

/-- The decoder answers IllegalOpcode exactly where the table gives no length. -/
theorem decode_eq_illegalOpcode_iff (op : Byte) (bs : List Byte) :
    decode (op :: bs) = .illegalOpcode op ↔ opcodeLength op = none := by
  rw [opcodeLength_eq_none_iff op (bs.getD 0 0) (bs.getD 1 0), decode]
  split
  · next h => exact ⟨fun _ => h, fun _ => rfl⟩
  · next i h =>
    simp only [h]
    split <;> exact ⟨nofun, nofun⟩

/-- The opcode bytes with no table entry, in ascending order. -/
def illegalOpcodes : List Byte := ((List.range 256).map (BitVec.ofNat 8)).filter fun op => (opcodeLength op).isNone

theorem mem_illegalOpcodes (op : Byte) : op ∈ illegalOpcodes ↔ opcodeLength op = none := by
  have hop : op ∈ (List.range 256).map (BitVec.ofNat 8) :=
    List.mem_map.mpr ⟨op.toNat, List.mem_range.mpr op.isLt, (BitVec.ofNat_toNat 8 op).trans op.setWidth_eq⟩
  rw [illegalOpcodes, List.mem_filter, Option.isNone_iff_eq_none]
  exact and_iff_right hop

/-- A readable opcode byte with no table entry is raised by the fetch, before any operand is read. -/
theorem fetch_illegal {s : State} (hr : Readable s s.pc) (h : opcodeLength (s.peek s.pc) = none) :
    fetch s = .raised (.illegalOpcode (s.peek s.pc) s.pc) (some (s.peek s.pc)) := by
  simp only [fetch, memRead_readable hr, h]

/-- Settles O3: R121's list is the computed one, and an illegal opcode stops the fetch. -/
theorem illegalOpcodesFault : Obligations.IllegalOpcodesFault := by
  intro op
  simp only [decode_eq_illegalOpcode_iff, forall_const]
  refine ⟨?_, fun s hop hr h => ?_⟩
  · rw [← mem_illegalOpcodes]
    exact iff_of_eq (congrArg (op ∈ ·) (by decide))
  · subst hop
    rw [stepInstr, fetch_illegal hr h]
    rfl

/-! ## The fetch -/

/-- A byte read at an address plus a number, and then the rest: it answers exactly when the address lies in the space and
can be read, and the rest answers on the byte there. -/
theorem readByte_bind_eq_ok_iff {α : Type} {f : Byte → Exec α} {p : Addr} {n : Nat} {s t : State} {a : α} :
    (do let q ← addr16 ((p.toNat : Int) + n); let b ← memRead q; f b : Exec α).run s = .ok a t ↔
      (p.toNat + n ≤ 0xFFFF ∧ Readable s (p + BitVec.ofNat 16 n))
        ∧ (f (s.peek (p + BitVec.ofNat 16 n))).run s = .ok a t := by
  by_cases hn : p.toNat + n ≤ 0xFFFF
  · by_cases hr : Readable s (p + BitVec.ofNat 16 n)
    · simp only [Exec.run_bind, addr16_next p n s hn, memRead_readable hr, hn, hr, true_and]
    · simp only [Exec.run_bind, addr16_next p n s hn, memRead_unreadable hr, hr, and_false, false_and, reduceCtorEq]
  · simp only [Exec.run_bind, addr16_error _ s (.inr (by omega : (0xFFFF : Int) < p.toNat + n)), hn, false_and,
      reduceCtorEq]

/-- The fetch of `n` operand bytes answers exactly when they lie in the address space and can be read; it answers those
bytes and changes nothing. -/
theorem fetchOperands_eq_ok_iff {p : Addr} {n : Nat} {s t : State} {bs : List Byte} (hn : n ≤ 2) :
    (fetchOperands p n).run s = .ok bs t ↔
      p.toNat + n ≤ 0xFFFF ∧ (∀ k < n, Readable s (p + BitVec.ofNat 16 (k + 1)))
        ∧ (List.range n).map (fun k => s.peek (p + BitVec.ofNat 16 (k + 1))) = bs ∧ s = t := by
  have h1 : (p.toNat : Int) + 1 = p.toNat + (1 : Nat) := rfl
  have h2 : (p.toNat : Int) + 2 = p.toNat + (2 : Nat) := rfl
  obtain rfl | rfl | rfl : n = 0 ∨ n = 1 ∨ n = 2 := by omega
  all_goals simp only [fetchOperands, h1, h2, readByte_bind_eq_ok_iff, Exec.run_pure, EStateM.Result.ok.injEq]
  · exact ⟨fun he => ⟨Nat.le_of_lt_succ p.isLt, nofun, he⟩, fun ⟨_, _, he⟩ => he⟩
  · exact ⟨fun ⟨⟨hp, r1⟩, he⟩ => ⟨hp, fun | 0, _ => r1, he⟩,
      fun ⟨hp, hr, he⟩ => ⟨⟨hp, hr 0 (by decide)⟩, he⟩⟩
  · exact ⟨fun ⟨⟨_, r1⟩, ⟨hp, r2⟩, he⟩ => ⟨hp, fun | 0, _ => r1 | 1, _ => r2, he⟩,
      fun ⟨hp, hr, he⟩ => ⟨⟨by omega, hr 0 (by decide)⟩, ⟨hp, hr 1 (by decide)⟩, he⟩⟩

/-- Where the fetch of `n` operand bytes answers, it answers `n` bytes. -/
theorem length_of_fetchOperands {p : Addr} {n : Nat} {s t : State} {bs : List Byte} (hn : n ≤ 2)
    (h : (fetchOperands p n).run s = .ok bs t) : bs.length = n := by
  obtain ⟨-, -, rfl, -⟩ := (fetchOperands_eq_ok_iff hn).mp h
  simp

/-- The fetch gives an instruction exactly when it reads the instruction's opcode and then its operand bytes. -/
theorem fetch_eq_instr_iff {s : State} {i : Instr} :
    fetch s = .instr i ↔ Readable s s.pc ∧ s.peek s.pc = i.opcode
      ∧ (fetchOperands s.pc (i.length - 1)).run s = .ok i.mode.operandBytes s := by
  have h2 := length_sub_one_le_two i
  constructor
  · intro h
    by_cases hr : Readable s s.pc
    · simp only [fetch, memRead_readable hr] at h
      split at h
      · cases h
      next n hn =>
      split at h
      · cases h
      next bs t hbs =>
      split at h <;> cases h
      next rest hd =>
      have he := eq_encode_append_of_decode hd
      rw [encode, List.cons_append, List.cons.injEq] at he
      obtain ⟨hop, rfl⟩ := he
      rw [hop, opcodeLength_opcode] at hn
      cases hn
      have hlen := length_of_fetchOperands h2 hbs
      rw [List.length_append, operandBytes_length, Nat.add_eq_left, List.length_eq_zero_iff] at hlen
      obtain ⟨-, -, -, rfl⟩ := (fetchOperands_eq_ok_iff h2).mp hbs
      rw [hlen, List.append_nil] at hbs
      exact ⟨hr, hop, hbs⟩
    · simp only [fetch, memRead_unreadable hr, reduceCtorEq] at h
  · rintro ⟨hr, hop, hbs⟩
    have hd := decode_encode_append i []
    rw [List.append_nil, encode] at hd
    simp only [fetch, memRead_readable hr, hop, opcodeLength_opcode, hbs, hd]

/-- A list of length `n` is a map over the range exactly when its entries are the values. -/
theorem map_range_eq_iff {α : Type} {f : Nat → α} {n : Nat} {l : List α} (hl : l.length = n) :
    (List.range n).map f = l ↔ ∀ k < n, l[k]? = some (f k) := by
  subst hl
  refine ⟨fun h k hk => ?_, fun h => List.ext_getElem (by simp) fun k _ hk => ?_⟩
  · rw [← h]
    simp [hk]
  · rw [List.getElem_map, List.getElem_range]
    exact Option.some.inj ((h k hk).symm.trans (List.getElem?_eq_getElem hk))

/-- Settles O4: entry 0 of the encoding is the opcode byte, the entries after it are the operand bytes. -/
theorem fetchReadsBytesAtPc : Obligations.FetchReadsBytesAtPc := by
  intro s i
  have hpos := length_pos i
  obtain ⟨n, hn⟩ : ∃ n, i.length = n + 1 := ⟨i.length - 1, by omega⟩
  rw [fetch_eq_instr_iff, fetchOperands_eq_ok_iff (by omega), map_range_eq_iff (operandBytes_length i), hn,
    Nat.add_sub_cancel, Nat.forall_lt_succ_left]
  simp only [encode, List.getElem?_cons_zero, List.getElem?_cons_succ, BitVec.add_zero, Option.some.injEq]
  exact ⟨fun ⟨hr, hop, hp, hrs, hbs, _⟩ => ⟨by omega, ⟨hr, hop.symm⟩, fun k hk => ⟨hrs k hk, hbs k hk⟩⟩,
    fun ⟨hp, ⟨hr, hop⟩, hbs⟩ =>
      ⟨hr, hop.symm, by omega, fun k hk => (hbs k hk).1, fun k hk => (hbs k hk).2, trivial⟩⟩

/-! ## Addressing modes -/

/-- An index added to a zero-page address wraps in zero page. -/
theorem zext16_add_toNat (zp index : Byte) : (zext16 (zp + index)).toNat = (zp.toNat + index.toNat) % 256 := by
  rw [zext16_toNat, BitVec.toNat_add]

/-- `Addr16` of an address plus an index that stays in the address space. -/
theorem addr16_index_ok {a : Addr} {index : Byte} (s : State) (h : a.toNat + index.toNat ≤ 0xFFFF) :
    ∃ e : Addr, (addr16 ((a.toNat : Int) + index.toNat)).run s = .ok e s ∧ e.toNat = a.toNat + index.toNat :=
  ⟨_, addr16_ok _ s h, (BitVec.toNat_ofNat _ _).trans (Nat.mod_eq_of_lt (Nat.lt_succ_of_le h))⟩

/-- `Addr16` of an address plus an index that leaves the address space. -/
theorem addr16_index_error {a : Addr} {index : Byte} (s : State) (h : 0xFFFF < a.toNat + index.toNat) :
    (addr16 ((a.toNat : Int) + index.toNat)).run s = .error (.outOfRange (a.toNat + index.toNat) none) s :=
  addr16_error _ s (.inr (by omega))

/-- Settles O11, mode by mode. -/
theorem indexedModesWrapOrFault : Obligations.IndexedModesWrapOrFault := fun s zp _ =>
  ⟨⟨_, rfl, zext16_toNat zp⟩, ⟨_, rfl, zext16_add_toNat zp s.x⟩, ⟨_, rfl, zext16_add_toNat zp s.y⟩, rfl, addr16_index_ok s,
    addr16_index_error s, addr16_index_ok s, addr16_index_error s⟩

/-- Settles O12: the pointer's second byte is the same-page successor, in zero page the successor modulo 256. -/
theorem pointerModesWrapTheirPage : Obligations.PointerModesWrapTheirPage := by
  intro s zp p q hpage hnext
  have hq : samePageNext p = q := samePageNext_eq p q hpage hnext
  refine ⟨fun hp => ?_, fun hp hr => ?_, fun hp hr => ⟨_, ?_, addrOfBytes_toNat _ _⟩, ⟨_, ?_, addrOfBytes_toNat _ _⟩, ?_⟩
  · simp only [ea, Exec.run_bind, memRead_unreadable hp]
  · simp only [ea, Exec.run_bind, memRead_readable hp, hq, memRead_unreadable hr]
  · simp only [ea, Exec.run_bind, memRead_readable hp, hq, memRead_readable hr, Exec.run_pure]
  · simp only [ea, Exec.run_bind, getReg_apply, State.reg_x, zeroPagePointer_apply, BitVec.toNat_add, Nat.mod_add_mod]
  · rintro n rfl
    rw [← addrOfBytes_toNat]
    have hea : (ea (.indirectIndexed zp)).run s = (addr16 (((addrOfBytes (s.ram.read zp.toNat)
        (s.ram.read ((zp.toNat + 1) % 256))).toNat : Int) + s.y.toNat)).run s := by
      simp only [ea, Exec.run_bind, zeroPagePointer_apply, getReg_apply, State.reg_y]
    rw [hea]
    exact ⟨addr16_index_ok s, addr16_index_error s⟩

/-- A mode with an operand other than Immediate reads it at the effective address. -/
theorem operand_of_ea {m : AddrMode} {s : State} {a : Addr} (h1 : m ≠ .implied) (h2 : ∀ b, m ≠ .immediate b)
    (h : (ea m).run s = .ok a s) : (operand m).run s = (memRead a).run s := by
  have hm : operand m = (do let a ← ea m; memRead a) := by
    cases m with
    | implied => exact absurd rfl h1
    | immediate b => exact absurd rfl (h2 b)
    | _ => rfl
  rw [hm, Exec.run_bind, h]

/-- Settles O13: an operand is a read at the effective address; an Immediate operand's byte stood at PC + 1 when the
instruction was fetched. -/
theorem operandIsByteAtEffectiveAddress : Obligations.OperandIsByteAtEffectiveAddress := by
  intro s
  refine ⟨fun m a h1 h2 ha => ?_, fun b => rfl, fun i b hi hf => ?_⟩
  · rw [operand_of_ea h1 h2 ha]
    exact ⟨memRead_readable, memRead_unreadable⟩
  · have hlen : i.length = 2 := by rw [Instr.length, hi, AddrMode.length]
    obtain ⟨hp, hbytes⟩ := (fetchReadsBytesAtPc s i).mp hf
    obtain ⟨hr, hb⟩ := hbytes 1 (by omega)
    rw [encode, hi] at hb
    cases Option.some.inj hb
    exact ⟨by omega, memRead_readable hr⟩

/-! ## Cycles and PC -/

/-- An instruction that is no control-flow instruction and completes ends in the common ending: its effect kept PC and
cycleCount, and it fits. -/
theorem exec_plain_advances {i : Instr} {s t : State} (hc : i.isControlFlow = false) (h : exec i s = .next t) :
    Fits i s ∧ ∃ u, PlainFrame s u ∧ t = u.advanced i := by
  rw [exec_plain i s hc] at h
  cases hb : (plainEffect i.mnemonic i.mode).run s with
  | error k u => rw [straight_faults i _ s u k hb] at h; cases h
  | ok a u =>
    have hu : PlainFrame s u := (Plain.plainEffect_of_instr i s).1 a u hb
    obtain ⟨hfits, hover⟩ := straight_ends i _ s u hb hu.2.1
    by_cases hfit : Fits i s
    · rw [hfits hfit] at h
      cases h
      exact ⟨hfit, u, hu, rfl⟩
    · rw [hover hfit] at h
      cases h

/-- Settles O43: the cycles by what an effect costs, the rest by the common ending (40_load_store_transfer.md R130). -/
theorem cyclesAndPcAdvance : Obligations.CyclesAndPcAdvance := by
  intro i s t h
  obtain ⟨hlo, hhi⟩ := Costs.effect i s () t (effect_of_exec h)
  refine ⟨hlo, hhi, two_le_baseCycles i, fun hc => ?_⟩
  obtain ⟨hfit, u, ⟨-, hpc, hcycles⟩, rfl⟩ := exec_plain_advances hc h
  refine ⟨congrArg (· + i.baseCycles) hcycles, ?_⟩
  rw [Fits] at hfit
  simp only [State.advanced, hpc, BitVec.toNat_add, BitVec.toNat_ofNat]
  omega

end Sys2Proof.Machine

/-! The family `40_load_store_transfer`: what loads, stores and register transfers write, and how they fault. -/

namespace Sys2Proof.Machine

open Sys2Proof

/-- A fault of the first computation ends a sequence. -/
theorem Exec.run_bind_error {α β : Type} {x : Exec α} {s t : State} {k : FaultKind} (f : α → Exec β)
    (h : x.run s = .error k t) : (x >>= f).run s = .error k t := by
  rw [Exec.run_bind, h]

/-- An instruction in the common ending whose mnemonic's effect raises nothing and leaves PC alone: it completes if it
fits, and otherwise faults at its PC update with its effect done. -/
theorem exec_plain_ends {i : Instr} {m : Mnemonic} {s t : State} (hi : i.mnemonic = m) (hm : m.isControlFlow = false)
    (hb : (plainEffect m i.mode).run s = .ok () t) (hpc : t.pc = s.pc) :
    (Fits i s → exec i s = .next (t.advanced i))
      ∧ (¬Fits i s → exec i s = faultOf s i (.outOfRange (s.pc.toNat + i.length) none) t) := by
  rw [exec_of_plain s hi hm]
  exact straight_ends i _ s t hb hpc

/-! ## Loads -/

/-- Settles O14: each opcode list is one mnemonic's, and its effect is the load of one register. -/
theorem loadsWriteTheirRegister : Obligations.LoadsWriteTheirRegister := by
  intro i s t v h
  obtain ⟨r, he, rfl⟩ : ∃ r, exec i s = straight i (load r i.mode) s ∧ t = (s.withReg r v).withFlags (s.flags.nz v) := by
    rcases h with ⟨hop, ht⟩ | ⟨hop, ht⟩ | ⟨hop, ht⟩
    · exact ⟨.a, exec_of_plain s (mnemonic_of_mem .lda (by decide) hop) rfl, ht⟩
    · exact ⟨.x, exec_of_plain s (mnemonic_of_mem .ldx (by decide) hop) rfl, ht⟩
    · exact ⟨.y, exec_of_plain s (mnemonic_of_mem .ldy (by decide) hop) rfl, ht⟩
  rw [he]
  exact ⟨fun hv => straight_ends i _ s _ (load_apply r i.mode s v hv) (State.withReg_pc s r v),
    fun k hk => straight_faults i _ s s k (Exec.run_bind_error _ hk)⟩

/-! ## Stores -/

/-- Settles O15: each opcode list is one mnemonic's, and its effect is one write of one register at the effective
address. -/
theorem storesWriteMemory : Obligations.StoresWriteMemory := by
  intro i s v h
  obtain ⟨r, he, rfl⟩ : ∃ r, exec i s = straight i (store r i.mode) s ∧ v = s.reg r := by
    rcases h with ⟨hop, hv⟩ | ⟨hop, hv⟩ | ⟨hop, hv⟩
    · exact ⟨.a, exec_of_plain s (mnemonic_of_mem .sta (by decide) hop) rfl, hv⟩
    · exact ⟨.x, exec_of_plain s (mnemonic_of_mem .stx (by decide) hop) rfl, hv⟩
    · exact ⟨.y, exec_of_plain s (mnemonic_of_mem .sty (by decide) hop) rfl, hv⟩
  rw [he]
  refine ⟨fun a ha => ?_, fun k hk => straight_faults i _ s s k (Exec.run_bind_error _ hk)⟩
  have hrun := store_apply r i.mode s a ha
  refine ⟨fun hw => ?_, fun k hk => straight_faults i _ s s k (hrun.trans hk)⟩
  obtain ⟨t, ht⟩ := (writable_iff s a (s.reg r)).mp hw
  have honly := memWrite_only a _ s t ht
  exact ⟨t, ht, honly, straight_ends i _ s t (hrun.trans ht) honly.pc⟩

/-! ## Transfers -/

/-- A transfer to A, X or Y copies its source register and sets Z and N from it. -/
theorem transfer_apply (src dst : Reg) (s : State) :
    (transfer src dst).run s = .ok () ((s.withReg dst (s.reg src)).withFlags (s.flags.nz (s.reg src))) := by
  simp only [transfer, Exec.run_bind, getReg_apply, setReg_apply, updateFlags_apply, setNZ_eq, State.withReg_flags]

/-- TXS copies X to SP and sets no flag. -/
theorem transferXToSp_apply (s : State) : transferXToSp.run s = .ok () { s with sp := s.x } := rfl

/-- Settles O16, transfer by transfer. -/
theorem transfersCopyRegisters : Obligations.TransfersCopyRegisters := by
  intro i s t h
  rcases h with ⟨hop, rfl⟩ | ⟨hop, rfl⟩ | ⟨hop, rfl⟩ | ⟨hop, rfl⟩ | ⟨hop, rfl⟩ | ⟨hop, rfl⟩
  · exact exec_plain_ends (mnemonic_of_eq .tax (by decide) hop) rfl (transfer_apply .a .x s) rfl
  · exact exec_plain_ends (mnemonic_of_eq .tay (by decide) hop) rfl (transfer_apply .a .y s) rfl
  · exact exec_plain_ends (mnemonic_of_eq .txa (by decide) hop) rfl (transfer_apply .x .a s) rfl
  · exact exec_plain_ends (mnemonic_of_eq .tya (by decide) hop) rfl (transfer_apply .y .a s) rfl
  · exact exec_plain_ends (mnemonic_of_eq .tsx (by decide) hop) rfl (transfer_apply .sp .x s) rfl
  · exact exec_plain_ends (mnemonic_of_eq .txs (by decide) hop) rfl (transferXToSp_apply s) rfl

end Sys2Proof.Machine

/-! The family `41_arithmetic_logic`: the adders, the logic operations, compare, bit test, increment and decrement. -/

namespace Sys2Proof.Machine

open Sys2Proof

/-- An instruction in the common ending whose mnemonic's effect raises faults there. -/
theorem exec_plain_faults {i : Instr} {m : Mnemonic} {s t : State} {k : FaultKind} (hi : i.mnemonic = m)
    (hm : m.isControlFlow = false) (hb : (plainEffect m i.mode).run s = .error k t) : exec i s = faultOf s i k t := by
  rw [exec_of_plain s hi hm]
  exact straight_faults i _ s t k hb

/-! ## The decimal adder and subtractor in arithmetic -/

/-- The low digit of a decimal addition, adjusted (41_arithmetic_logic.md R152). -/
def adcLow (a m : Byte) (c : Bool) : Nat :=
  if 10 ≤ a.toNat % 16 + m.toNat % 16 + c.toNat then (a.toNat % 16 + m.toNat % 16 + c.toNat + 6) % 16 + 16
  else a.toNat % 16 + m.toNat % 16 + c.toNat

/-- The sum of a decimal addition before the high digit's adjustment (R152). -/
def adcHigh (a m : Byte) (c : Bool) : Nat := a.toNat / 16 * 16 + m.toNat / 16 * 16 + adcLow a m c

/-- The adjusted sum of a decimal addition (R152). -/
def adcAdjusted (a m : Byte) (c : Bool) : Nat :=
  if 0xA0 ≤ adcHigh a m c then adcHigh a m c + 0x60 else adcHigh a m c

/-- The value of a byte's high digit in place, read as a signed byte. -/
def signedHighDigit (b : Byte) : Int :=
  if b.toNat < 128 then ((b.toNat / 16 * 16 : Nat) : Int) else (b.toNat / 16 * 16 : Nat) - 256

/-- The low digit of a decimal subtraction, adjusted (R154). -/
def sbcLow (a m : Byte) (c : Bool) : Int :=
  if (a.toNat % 16 : Int) - m.toNat % 16 + c.toNat - 1 < 0 then
    ((a.toNat % 16 : Int) - m.toNat % 16 + c.toNat - 1 - 6) % 16 - 16
  else (a.toNat % 16 : Int) - m.toNat % 16 + c.toNat - 1

/-- The difference of a decimal subtraction before the high digit's adjustment (R154). -/
def sbcHigh (a m : Byte) (c : Bool) : Int := (a.toNat / 16 * 16 : Int) - m.toNat / 16 * 16 + sbcLow a m c

/-- The adjusted difference of a decimal subtraction (R154). -/
def sbcAdjusted (a m : Byte) (c : Bool) : Int :=
  if sbcHigh a m c < 0 then sbcHigh a m c - 0x60 else sbcHigh a m c

theorem sext8_highDigit (b : Byte) : sext8 (b &&& 0xF0) = signedHighDigit b := by
  rw [sext8, byte_toInt, highDigit_toNat, signedHighDigit]
  split <;> split <;> omega

theorem u8_beq_zero (n : Nat) : (u8 n == 0) = decide (n % 256 = 0) := by
  rw [Bool.eq_iff_iff, beq_iff_eq, decide_eq_true_iff, ← BitVec.toNat_inj, u8, BitVec.toNat_ofNat]
  rfl

/-- The decimal adder as sums of digits (R152). -/
theorem decimalAdc_eq (a m : Byte) (c : Bool) : decimalAdc a m c =
    { r := BitVec.ofNat 8 (adcAdjusted a m c), c := decide (0x100 ≤ adcAdjusted a m c)
      z := decide ((a.toNat + m.toNat + c.toNat) % 256 = 0), n := decide (adcHigh a m c / 128 % 2 = 1)
      v := decide (signedHighDigit a + signedHighDigit m + adcLow a m c < -128
        ∨ 127 < signedHighDigit a + signedHighDigit m + adcLow a m c) } := by
  simp only [decimalAdc, lowDigit_toNat, lowDigit_nat, highDigit_toNat, sext8_highDigit, u8_beq_zero,
    Nat.testBit_eq_decide_div_mod_eq, Bool.decide_or]
  rfl

/-- The decimal subtractor as differences of digits (R154). -/
theorem decimalSbc_eq (a m : Byte) (c : Bool) : decimalSbc a m c = BitVec.ofInt 8 (sbcAdjusted a m c) := by
  simp only [decimalSbc, lowDigit_toNat, highDigit_toNat]
  rfl

/-! ## ADC and SBC -/

/-- Settles O17: A and the flags are the adder's, binary or decimal by D. -/
theorem adcAddsWithCarry : Obligations.AdcAddsWithCarry := by
  intro i s hop
  have hadc : i.mnemonic = .adc := mnemonic_of_mem .adc (by decide) hop
  refine ⟨fun t v sum hd hv hsum ht => ?binary, fun t v low lo hi adj hiS hd hv hlow hlo hhi hhiS hadj ht => ?decimal,
    fun k hk => exec_plain_faults hadc rfl (Exec.run_bind_error _ hk)⟩
  case binary =>
    refine exec_plain_ends hadc rfl ((accumulate_apply adcResult i.mode s v hv).trans ?_) (by rw [ht])
    simp only [adcResult, hd, Bool.false_eq_true, if_false, addBin_eq _ _ _ sum hsum, withArith, ht]
  case decimal =>
    refine exec_plain_ends hadc rfl ((accumulate_apply adcResult i.mode s v hv).trans ?_) (by rw [ht])
    subst hadj hhiS hhi hlo hlow
    simp only [adcResult, hd, if_true, decimalAdc_eq, withArith, ht]
    rfl

/-- Settles O18: the flags are the binary adder's on the complemented operand; A is its result or the decimal
subtractor's. -/
theorem sbcSubtractsWithBorrow : Obligations.SbcSubtractsWithBorrow := by
  intro i s hop
  have hsbc : i.mnemonic = .sbc := mnemonic_of_mem .sbc (by decide) hop
  refine ⟨fun t v r diff hv hdiff hr ht => ?_, fun k hk => exec_plain_faults hsbc rfl (Exec.run_bind_error _ hk)⟩
  refine exec_plain_ends hsbc rfl ((accumulate_apply sbcResult i.mode s v hv).trans ?_) (by rw [ht])
  have hres : (if s.flags.d then decimalSbc s.a v s.flags.c else BitVec.ofInt 8 diff) = r := by
    rcases hr with ⟨hd, rfl⟩ | ⟨hd, _, _, _, rfl, rfl, rfl, rfl⟩
    · rw [hd]; rfl
    · rw [hd, if_pos rfl, decimalSbc_eq]; rfl
  simp only [sbcResult, addBin_complement_eq _ _ _ diff hdiff, hres, withArith, ht]

/-! ## Two-digit decimal numbers -/

theorem digits_toNat {a b : Nat} (ha : a < 10) (hb : b < 10) : (BitVec.ofNat 8 (16 * a + b)).toNat = 16 * a + b := by
  rw [BitVec.toNat_ofNat]
  omega

theorem adcLow_digits {a b m n : Nat} (c : Bool) (ha : a < 10) (hb : b < 10) (hm : m < 10) (hn : n < 10) :
    adcLow (BitVec.ofNat 8 (16 * a + b)) (BitVec.ofNat 8 (16 * m + n)) c
      = if 10 ≤ b + n + c.toNat then b + n + c.toNat + 6 else b + n + c.toNat := by
  have hc := c.toNat_le
  rw [adcLow, digits_toNat ha hb, digits_toNat hm hn]
  split <;> split <;> omega

/-- The byte that holds a two-digit number, one digit in each half. -/
def packed (k : Nat) : Nat := k / 10 * 16 + k % 10

theorem packed_lt {k : Nat} (h : k < 100) : packed k < 256 := by
  rw [packed]
  omega

/-- The decimal sum of two-digit numbers: its last two digits, and its carry above the byte. -/
theorem adcAdjusted_digits {a b m n sum : Nat} (c : Bool) (ha : a < 10) (hb : b < 10) (hm : m < 10) (hn : n < 10)
    (hsum : sum = 10 * a + b + (10 * m + n) + c.toNat) :
    adcAdjusted (BitVec.ofNat 8 (16 * a + b)) (BitVec.ofNat 8 (16 * m + n)) c
      = packed (sum % 100) + 256 * (sum / 100) := by
  have hc := c.toNat_le
  have hhigh : adcHigh (BitVec.ofNat 8 (16 * a + b)) (BitVec.ofNat 8 (16 * m + n)) c = packed sum := by
    rw [adcHigh, adcLow_digits c ha hb hm hn, digits_toNat ha hb, digits_toNat hm hn, packed]
    split <;> omega
  have hlt : sum < 200 := by omega
  clear hsum
  rw [adcAdjusted, hhigh, packed, packed]
  split <;> omega

/-- The decimal difference of two-digit numbers: its last two digits, below zero where it borrows. -/
theorem sbcAdjusted_digits {a b m n diff : Nat} (c : Bool) (ha : a < 10) (hb : b < 10) (hm : m < 10) (hn : n < 10)
    (hdiff : diff = 100 + (10 * a + b) - (10 * m + n) - (1 - c.toNat)) :
    sbcAdjusted (BitVec.ofNat 8 (16 * a + b)) (BitVec.ofNat 8 (16 * m + n)) c
      = packed (diff % 100) + 256 * ((diff / 100 : Nat) - 1 : Int) := by
  have hc := c.toNat_le
  have hhigh : sbcHigh (BitVec.ofNat 8 (16 * a + b)) (BitVec.ofNat 8 (16 * m + n)) c = packed diff - 160 := by
    rw [sbcHigh, sbcLow, digits_toNat ha hb, digits_toNat hm hn, packed]
    split <;> omega
  have hlt : diff < 200 := by omega
  clear hdiff
  rw [sbcAdjusted, hhigh, packed, packed]
  split <;> omega

/-- Settles O19: each result is a two-digit number's byte modulo 256. -/
theorem decimalArithmeticOnDigits : Obligations.DecimalArithmeticOnDigits := by
  intro a b m n c ha hb hm hn
  rw [decimalAdc_eq, decimalSbc_eq, adcAdjusted_digits c ha hb hm hn rfl, sbcAdjusted_digits c ha hb hm hn rfl]
  generalize 10 * a + b + (10 * m + n) + c.toNat = sum
  generalize 100 + (10 * a + b) - (10 * m + n) - (1 - c.toNat) = diff
  have hpacked : ∀ k, packed (k % 100) = k % 100 / 10 * 16 + k % 10 := fun k => by
    rw [packed, Nat.mod_mod_of_dvd k (by decide)]
  have hlt : ∀ k, packed (k % 100) < 256 := fun k => packed_lt (Nat.mod_lt k (by decide))
  refine ⟨?_, ?_, ?_⟩
  · rw [BitVec.toNat_ofNat, ← hpacked]
    have := hlt sum
    omega
  · rw [decide_eq_true_iff]
    have := hlt sum
    omega
  · rw [BitVec.toNat_ofInt, ← hpacked]
    have := hlt diff
    omega

/-! ## Logic operations -/

/-- Settles O20: the result byte is determined by its bits. -/
theorem logicOperations : Obligations.LogicOperations := by
  intro i s t v r h
  obtain ⟨op, he, hr⟩ : ∃ op, exec i s = straight i (accumulate op i.mode) s
      ∧ op s.a v s.flags = (r, setNZ r s.flags) := by
    rcases h with ⟨hop, hbits⟩ | ⟨hop, hbits⟩ | ⟨hop, hbits⟩
    · obtain rfl : r = s.a &&& v := BitVec.eq_of_getLsbD_eq fun k hk => (hbits k hk).trans BitVec.getLsbD_and.symm
      exact ⟨andResult, exec_of_plain s (mnemonic_of_mem .and (by decide) hop) rfl, rfl⟩
    · obtain rfl : r = s.a ||| v := BitVec.eq_of_getLsbD_eq fun k hk => (hbits k hk).trans BitVec.getLsbD_or.symm
      exact ⟨oraResult, exec_of_plain s (mnemonic_of_mem .ora (by decide) hop) rfl, rfl⟩
    · obtain rfl : r = s.a ^^^ v := BitVec.eq_of_getLsbD_eq fun k hk => (hbits k hk).trans BitVec.getLsbD_xor.symm
      exact ⟨eorResult, exec_of_plain s (mnemonic_of_mem .eor (by decide) hop) rfl, rfl⟩
  rw [he]
  refine ⟨fun hv ht => ?_, fun k hk => straight_faults i _ s s k (Exec.run_bind_error _ hk)⟩
  refine straight_ends i _ s t ((accumulate_apply op i.mode s v hv).trans ?_) (by rw [ht])
  rw [hr, ht, setNZ_eq]

/-! ## Compare and bit test -/

/-- A compare writes the flags only. -/
theorem compareReg_apply {r : Reg} {mode : AddrMode} {s : State} {m : Byte} (h : (operand mode).run s = .ok m s) :
    (compareReg r mode).run s = .ok () (s.withFlags (compareFlags (s.reg r) m s.flags)) := by
  simp only [compareReg, Exec.run_bind, h, getReg_apply, updateFlags_apply]

/-- Settles O21: each opcode list is one mnemonic's, and its effect is the compare of one register. -/
theorem comparesSetFlags : Obligations.ComparesSetFlags := by
  intro i s t r m h
  obtain ⟨reg, he, rfl⟩ : ∃ reg, exec i s = straight i (compareReg reg i.mode) s ∧ r = s.reg reg := by
    rcases h with ⟨hop, hr⟩ | ⟨hop, hr⟩ | ⟨hop, hr⟩
    · exact ⟨.a, exec_of_plain s (mnemonic_of_mem .cmp (by decide) hop) rfl, hr⟩
    · exact ⟨.x, exec_of_plain s (mnemonic_of_mem .cpx (by decide) hop) rfl, hr⟩
    · exact ⟨.y, exec_of_plain s (mnemonic_of_mem .cpy (by decide) hop) rfl, hr⟩
  rw [he]
  refine ⟨fun hm ht => ?_, fun k hk => straight_faults i _ s s k (Exec.run_bind_error _ hk)⟩
  refine straight_ends i _ s t ((compareReg_apply hm).trans ?_) (by rw [ht])
  rw [compareFlags_eq, ht]
  rfl

/-- BIT writes the flags only. -/
theorem bitTest_apply {mode : AddrMode} {s : State} {m : Byte} (h : (operand mode).run s = .ok m s) :
    (bitTest mode).run s = .ok () (s.withFlags (bitFlags s.a m s.flags)) := by
  simp only [bitTest, Exec.run_bind, h, getReg_apply, updateFlags_apply, State.reg_a]

/-- Two bytes have no bit in common. -/
theorem and_beq_zero_iff (a m : Byte) :
    (a &&& m == 0) = true ↔ ∀ k : Fin 8, (a.getLsbD k && m.getLsbD k) = false := by
  rw [beq_iff_eq]
  constructor
  · intro h k
    rw [← BitVec.getLsbD_and, h]
    exact BitVec.getLsbD_zero
  · intro h
    apply BitVec.eq_of_getLsbD_eq
    intro k hk
    rw [BitVec.getLsbD_and, h ⟨k, hk⟩]
    exact BitVec.getLsbD_zero.symm

/-- Settles O22: Z by the bits in common, N and V by the bits' place values. -/
theorem bitTestsMemory : Obligations.BitTestsMemory := by
  intro i s t v hop
  have hbit : i.mnemonic = .bit := mnemonic_of_mem .bit (by decide) hop
  refine ⟨fun hv ht => ?_, fun k hk => exec_plain_faults hbit rfl (Exec.run_bind_error _ hk)⟩
  refine exec_plain_ends hbit rfl ((bitTest_apply hv).trans ?_) (by rw [ht])
  have hz : (s.a &&& v == 0) = decide (∀ k : Fin 8, (s.a.getLsbD k && v.getLsbD k) = false) :=
    Bool.eq_iff_iff.mpr ((and_beq_zero_iff s.a v).trans decide_eq_true_iff.symm)
  rw [bitFlags, hz, BitVec.getLsbD, BitVec.getLsbD, Nat.testBit_eq_decide_div_mod_eq,
    Nat.testBit_eq_decide_div_mod_eq, ht]
  rfl

/-! ## Increment and decrement -/

theorem eq_increment {v r : Byte} (h : r.toNat = (v.toNat + 1) % 256) : r = increment v :=
  BitVec.eq_of_toNat_eq (h.trans (BitVec.toNat_add v 1).symm)

theorem eq_decrement {v r : Byte} (h : r.toNat = (v.toNat + 255) % 256) : r = decrement v := by
  apply BitVec.eq_of_toNat_eq
  rw [h, decrement, BitVec.toNat_sub, Nat.add_comm]
  rfl

/-- INC and DEC at a readable address are one write of the stepped byte, and then Z and N. -/
theorem modifyMem_apply (op : Byte → Byte) {mode : AddrMode} {s : State} {a : Addr} (h : (ea mode).run s = .ok a s)
    (hr : Readable s a) :
    (modifyMem op mode).run s
      = (do memWrite a (op (s.peek a)); updateFlags (setNZ (op (s.peek a))) : Exec Unit).run s := by
  simp only [modifyMem, Exec.run_bind, h, memRead_readable hr]

/-- Settles O23: a read at the effective address, then one write, which keeps PC and the flags, then Z and N. -/
theorem incDecMemory : Obligations.IncDecMemory := by
  intro i s a r h
  obtain ⟨op, he, rfl⟩ : ∃ op, exec i s = straight i (modifyMem op i.mode) s ∧ r = op (s.peek a) := by
    rcases h with ⟨hop, hr⟩ | ⟨hop, hr⟩
    · exact ⟨increment, exec_of_plain s (mnemonic_of_mem .inc (by decide) hop) rfl, eq_increment hr⟩
    · exact ⟨decrement, exec_of_plain s (mnemonic_of_mem .dec (by decide) hop) rfl, eq_decrement hr⟩
  rw [he]
  refine ⟨fun ha => ⟨fun hw => ?written, fun hr k hk => ?unwritable, fun hr => ?unreadable⟩,
    fun k hk => straight_faults i _ s s k (Exec.run_bind_error _ hk)⟩
  case written =>
    obtain ⟨t, ht⟩ := (writable_iff s a (op (s.peek a))).mp hw
    have honly := memWrite_only a _ s t ht
    refine ⟨t, ht, honly, straight_ends i _ s _ ?_ honly.pc⟩
    rw [modifyMem_apply op ha (readable_of_writable hw), Exec.run_bind, ht, ← honly.flags, ← setNZ_eq]
    rfl
  case unwritable =>
    exact straight_faults i _ s s k ((modifyMem_apply op ha hr).trans (Exec.run_bind_error _ hk))
  case unreadable =>
    refine straight_faults i _ s s _ ?_
    simp only [modifyMem, Exec.run_bind, ha, memRead_unreadable hr]

/-- INX to DEY step their register and set Z and N from it. -/
theorem modifyReg_apply (op : Byte → Byte) (r : Reg) (s : State) :
    (modifyReg op r).run s = .ok () ((s.withReg r (op (s.reg r))).withFlags (s.flags.nz (op (s.reg r)))) := by
  simp only [modifyReg, Exec.run_bind, getReg_apply, setReg_apply, updateFlags_apply, setNZ_eq, State.withReg_flags]

/-- Settles O24, instruction by instruction. -/
theorem incDecRegisters : Obligations.IncDecRegisters := by
  intro i s t r h
  rcases h with ⟨hop, hr, rfl⟩ | ⟨hop, hr, rfl⟩ | ⟨hop, hr, rfl⟩ | ⟨hop, hr, rfl⟩
  · obtain rfl := eq_increment hr
    exact exec_plain_ends (mnemonic_of_eq .inx (by decide) hop) rfl (modifyReg_apply increment .x s) rfl
  · obtain rfl := eq_increment hr
    exact exec_plain_ends (mnemonic_of_eq .iny (by decide) hop) rfl (modifyReg_apply increment .y s) rfl
  · obtain rfl := eq_decrement hr
    exact exec_plain_ends (mnemonic_of_eq .dex (by decide) hop) rfl (modifyReg_apply decrement .x s) rfl
  · obtain rfl := eq_decrement hr
    exact exec_plain_ends (mnemonic_of_eq .dey (by decide) hop) rfl (modifyReg_apply decrement .y s) rfl

end Sys2Proof.Machine

/-! The family `42_shift_rotate`: the shifts and rotates of A and of memory. -/

namespace Sys2Proof.Machine

open Sys2Proof

/-- A byte and a carry that agree in arithmetic with a shift's are the shift's. -/
theorem eq_shift (op : Shift) {v r : Byte} {c d b : Bool} {n : Nat} (hn : (op.byte v c).toNat = n)
    (hb : op.carry v = b) (hr : r.toNat = n) (hd : d = b) : r = op.byte v c ∧ d = op.carry v :=
  ⟨BitVec.eq_of_toNat_eq (hr.trans hn.symm), hd.trans hb.symm⟩

/-- The flags of a shift are its carry out, and Z and N from its result. -/
theorem shiftFlags_eq (op : Shift) (v : Byte) (f : Flags) :
    shiftFlags op v f = { f with c := op.carry v }.nz (op.byte v f.c) :=
  setNZ_eq _ _

/-! ## What a shift does -/

/-- A shift of A writes A and the flags. -/
theorem shiftAcc_apply (op : Shift) (s : State) :
    (shiftAcc op).run s = .ok () { s with
      a := op.byte s.a s.flags.c, flags := { s.flags with c := op.carry s.a }.nz (op.byte s.a s.flags.c) } := by
  simp only [shiftAcc, Exec.run_bind, getReg_apply, getFlags_apply, setReg_apply, updateFlags_apply, shiftFlags_eq]
  rfl

/-- A shift of a readable byte of memory is one write of the result, and then the flags. -/
theorem shiftMem_apply (op : Shift) {mode : AddrMode} {s : State} {a : Addr} (h : (ea mode).run s = .ok a s)
    (hr : Readable s a) :
    (shiftMem op mode).run s
      = (do memWrite a (op.byte (s.peek a) s.flags.c); updateFlags (shiftFlags op (s.peek a)) : Exec Unit).run s := by
  simp only [shiftMem, Exec.run_bind, h, memRead_readable hr, getFlags_apply]

/-- A shift of memory whose write raises nothing leaves what the write leaves, with the flags written. -/
theorem shiftMem_written {op : Shift} {mode : AddrMode} {s t : State} {a : Addr} (h : (ea mode).run s = .ok a s)
    (hr : Readable s a) (ht : (memWrite a (op.byte (s.peek a) s.flags.c)).run s = .ok () t) :
    (shiftMem op mode).run s = .ok () { t with
      flags := { s.flags with c := op.carry (s.peek a) }.nz (op.byte (s.peek a) s.flags.c) } := by
  rw [shiftMem_apply op h hr, Exec.run_bind, ht, ← (memWrite_only a _ s t ht).flags, ← shiftFlags_eq]
  rfl

/-- A shift of memory whose read raises does nothing else. -/
theorem shiftMem_unreadable (op : Shift) {mode : AddrMode} {s : State} {a : Addr} (h : (ea mode).run s = .ok a s)
    (hr : ¬Readable s a) : (shiftMem op mode).run s = .error (.ignoredHardwareAccess a .read) s := by
  simp only [shiftMem, Exec.run_bind, h, memRead_unreadable hr]

/-! ## Which shift an opcode is -/

/-- An opcode whose encoding is longer than one byte is not an Implied instruction's. -/
theorem mode_ne_implied_of_mem {i : Instr} {l : List Byte} (hl : ∀ op ∈ l, opcodeLength op ≠ some 1)
    (h : i.opcode ∈ l) : i.mode ≠ .implied := by
  intro hm
  apply hl _ h
  rw [opcodeLength_opcode, Instr.length, hm]
  rfl

/-- A shift whose opcode is one of a list of memory forms runs the memory form of R180. -/
theorem exec_memoryShift {i : Instr} {l : List Byte} (op : Shift) (m : Mnemonic) (s : State)
    (hm : m.isControlFlow = false) (he : ∀ mode, plainEffect m mode = shiftAny op mode)
    (hl : ∀ b ∈ l, (decodeOpcode b 0 0).map Instr.mnemonic = some m ∧ opcodeLength b ≠ some 1) (h : i.opcode ∈ l) :
    exec i s = straight i (shiftMem op i.mode) s := by
  have hmode : i.mode ≠ .implied := mode_ne_implied_of_mem (fun b hb => (hl b hb).2) h
  rw [exec_of_plain s (mnemonic_of_mem m (fun b hb => (hl b hb).1) h) hm, he, shiftAny_mem op _ hmode]

/-- Settles O25: each opcode list is one shift's; the accumulator form writes A and the flags, the memory form is one read
and one write at the effective address, which keeps PC and the flags, then the flags. -/
theorem shiftsAndRotates : Obligations.ShiftsAndRotates := by
  refine ⟨fun i s t r c h ht => ?accumulator, fun i s a r c v hv h => ?memory⟩
  case accumulator =>
    obtain ⟨op, he, rfl, rfl⟩ : ∃ op, exec i s = straight i (shiftAcc op) s ∧ r = op.byte s.a s.flags.c
        ∧ c = op.carry s.a := by
      rcases h with ⟨hop, hr, hc⟩ | ⟨hop, hr, hc⟩ | ⟨hop, hr, hc⟩ | ⟨hop, hr, hc⟩
      · obtain rfl := eq_of_opcode (j := .aslAcc) (fun _ _ => rfl) hop
        exact ⟨.asl, rfl, eq_shift .asl (shift_byte_toNat ..) (shift_carry_eq ..) hr hc⟩
      · obtain rfl := eq_of_opcode (j := .lsrAcc) (fun _ _ => rfl) hop
        exact ⟨.lsr, rfl, eq_shift .lsr (shift_byte_toNat ..) (shift_carry_eq ..) hr hc⟩
      · obtain rfl := eq_of_opcode (j := .rolAcc) (fun _ _ => rfl) hop
        exact ⟨.rol, rfl, eq_shift .rol (shift_byte_toNat ..) (shift_carry_eq ..) hr hc⟩
      · obtain rfl := eq_of_opcode (j := .rorAcc) (fun _ _ => rfl) hop
        exact ⟨.ror, rfl, eq_shift .ror (shift_byte_toNat ..) (shift_carry_eq ..) hr hc⟩
    rw [he, ht]
    exact straight_ends i _ s _ (shiftAcc_apply op s) rfl
  case memory =>
    obtain ⟨op, he, rfl, rfl⟩ : ∃ op, exec i s = straight i (shiftMem op i.mode) s
        ∧ r = op.byte (s.peek a) s.flags.c ∧ c = op.carry (s.peek a) := by
      subst hv
      rcases h with ⟨hop, hr, hc⟩ | ⟨hop, hr, hc⟩ | ⟨hop, hr, hc⟩ | ⟨hop, hr, hc⟩
      · exact ⟨.asl, exec_memoryShift .asl .asl s rfl (fun _ => rfl) (by decide) hop,
          eq_shift .asl (shift_byte_toNat ..) (shift_carry_eq ..) hr hc⟩
      · exact ⟨.lsr, exec_memoryShift .lsr .lsr s rfl (fun _ => rfl) (by decide) hop,
          eq_shift .lsr (shift_byte_toNat ..) (shift_carry_eq ..) hr hc⟩
      · exact ⟨.rol, exec_memoryShift .rol .rol s rfl (fun _ => rfl) (by decide) hop,
          eq_shift .rol (shift_byte_toNat ..) (shift_carry_eq ..) hr hc⟩
      · exact ⟨.ror, exec_memoryShift .ror .ror s rfl (fun _ => rfl) (by decide) hop,
          eq_shift .ror (shift_byte_toNat ..) (shift_carry_eq ..) hr hc⟩
    rw [he]
    refine ⟨fun ha => ⟨fun hw => ?written, fun hr k hk => ?unwritable, fun hr => ?unreadable⟩,
      fun k hk => straight_faults i _ s s k (Exec.run_bind_error _ hk)⟩
    case written =>
      obtain ⟨t, ht⟩ := (writable_iff s a (op.byte (s.peek a) s.flags.c)).mp hw
      have honly := memWrite_only a _ s t ht
      exact ⟨t, ht, honly, straight_ends i _ s _ (shiftMem_written ha (readable_of_writable hw) ht) honly.pc⟩
    case unwritable =>
      exact straight_faults i _ s s k ((shiftMem_apply op ha hr).trans (Exec.run_bind_error _ hk))
    case unreadable =>
      exact straight_faults i _ s s _ (shiftMem_unreadable op ha hr)

end Sys2Proof.Machine

/-! The family `43_control_transfer`: branches, jumps and subroutines, how they complete and how they fault. -/

namespace Sys2Proof.Machine

open Sys2Proof

/-! ## Which instruction an opcode is -/

/-- An opcode and a mode determine the instruction. -/
theorem eq_of_opcode_of_mode {i j : Instr} (hop : i.opcode = j.opcode) (hm : i.mode = j.mode) : i = j :=
  encode_injective (by rw [encode, encode, hop, hm])

/-- An instruction is what its opcode decodes to, for some operand bytes. -/
theorem exists_operands_of_opcode {i : Instr} {op : Byte} {f : Byte → Byte → Instr}
    (hf : ∀ b1 b2, decodeOpcode op b1 b2 = some (f b1 b2)) (hop : i.opcode = op) : ∃ b1 b2, i = f b1 b2 := by
  have h := decodeOpcode_opcode i
  rw [hop, hf] at h
  exact ⟨_, _, (Option.some.inj h).symm⟩

/-! ## Branches -/

/-- The page of an address, in the arithmetic terms of the statements (30_encoding.md R119). -/
theorem hiByte_eq_hiByte_iff (a b : Addr) : hiByte a = hiByte b ↔ a.toNat / 256 = b.toNat / 256 := by
  have ha : a.toNat / 256 < 2 ^ 8 := by omega
  have hb : b.toNat / 256 < 2 ^ 8 := by omega
  rw [hiByte_eq, hiByte_eq, ← BitVec.toNat_inj, BitVec.toNat_ofNat, BitVec.toNat_ofNat, Nat.mod_eq_of_lt ha,
    Nat.mod_eq_of_lt hb]

theorem toNat_add_two {p : Addr} (h : p.toNat + 2 ≤ 0xFFFF) : (p + 2).toNat = p.toNat + 2 := by
  bv_omega

section
variable (base : Nat) (cond : Flags → Bool) (off : Byte) {s : State}

/-- A branch whose following instruction lies past the address space. -/
theorem branch_overflow (h : 0xFFFF < s.pc.toNat + 2) :
    (branch base cond off).run s = .error (.outOfRange (s.pc.toNat + 2) none) s := by
  simp only [branch, Exec.run_bind, getPc_apply, addr16_error (s.pc.toNat + 2 : Int) s (by omega)]

variable (hfit : s.pc.toNat + 2 ≤ 0xFFFF)
include hfit

/-- A branch that is not taken. -/
theorem branch_not_taken (hc : cond s.flags = false) :
    (branch base cond off).run s = .ok () { s with pc := s.pc + 2, cycleCount := s.cycleCount + base } := by
  simp only [branch, Exec.run_bind, getPc_apply, addr16_next_two s.pc s hfit, getFlags_apply, hc, Bool.false_eq_true,
    if_false, addCycles_apply, setPc_apply]
  rfl

/-- A taken branch to a target outside the address space. -/
theorem branch_target_error (hc : cond s.flags = true) {dest : Int} (hdest : dest = s.pc.toNat + 2 + off.toInt)
    (h : dest < 0 ∨ 0xFFFF < dest) : (branch base cond off).run s = .error (.outOfRange dest none) s := by
  simp only [branch, Exec.run_bind, getPc_apply, addr16_next_two s.pc s hfit, getFlags_apply, hc, if_true,
    toNat_add_two hfit, Nat.cast_add, Nat.cast_ofNat, sext8, ← hdest, addr16_error dest s h]

/-- A taken branch costs one cycle more, and two when its target is on another page than the following instruction. -/
theorem branch_target_ok (hc : cond s.flags = true) {p : Addr} (hp : (p.toNat : Int) = s.pc.toNat + 2 + off.toInt) :
    (branch base cond off).run s = .ok ()
      { s with
        pc := p
        cycleCount := s.cycleCount + if p.toNat / 256 = (s.pc.toNat + 2) / 256 then base + 1 else base + 2 } := by
  have haddr : (addr16 (p.toNat : Int)).run s = .ok p s := by
    rw [addr16_ok p.toNat s (by omega), BitVec.ofNat_toNat, BitVec.setWidth_eq]
  have hcost : base + 1 + (if hiByte p ≠ hiByte (s.pc + 2) then 1 else 0)
      = if p.toNat / 256 = (s.pc.toNat + 2) / 256 then base + 1 else base + 2 := by
    simp only [ne_eq, ite_not, hiByte_eq_hiByte_iff, toNat_add_two hfit]
    split <;> rfl
  simp only [branch, Exec.run_bind, getPc_apply, addr16_next_two s.pc s hfit, getFlags_apply, hc, if_true,
    toNat_add_two hfit, Nat.cast_add, Nat.cast_ofNat, sext8, ← hp, haddr, hcost, addCycles_apply, setPc_apply]
  rfl

end

/-- Settles O27: each opcode is the branch on one condition; then by what a branch can do. -/
theorem conditionalBranches : Obligations.ConditionalBranches := by
  intro i s off taken dest hmode h hdest
  obtain ⟨cond, he, hctl, rfl⟩ :
      ∃ cond, exec i s = perform i (branch 2 cond off) s ∧ i.isControlFlow = true ∧ taken = cond s.flags := by
    rcases h with ⟨hop, ht⟩ | ⟨hop, ht⟩ | ⟨hop, ht⟩ | ⟨hop, ht⟩ | ⟨hop, ht⟩ | ⟨hop, ht⟩ | ⟨hop, ht⟩ | ⟨hop, ht⟩
    · obtain rfl := eq_of_opcode_of_mode (j := .bccRel off) hop hmode
      exact ⟨fun f => !f.c, rfl, rfl, ht⟩
    · obtain rfl := eq_of_opcode_of_mode (j := .bcsRel off) hop hmode
      exact ⟨fun f => f.c, rfl, rfl, ht⟩
    · obtain rfl := eq_of_opcode_of_mode (j := .beqRel off) hop hmode
      exact ⟨fun f => f.z, rfl, rfl, ht⟩
    · obtain rfl := eq_of_opcode_of_mode (j := .bneRel off) hop hmode
      exact ⟨fun f => !f.z, rfl, rfl, ht⟩
    · obtain rfl := eq_of_opcode_of_mode (j := .bmiRel off) hop hmode
      exact ⟨fun f => f.n, rfl, rfl, ht⟩
    · obtain rfl := eq_of_opcode_of_mode (j := .bplRel off) hop hmode
      exact ⟨fun f => !f.n, rfl, rfl, ht⟩
    · obtain rfl := eq_of_opcode_of_mode (j := .bvcRel off) hop hmode
      exact ⟨fun f => !f.v, rfl, rfl, ht⟩
    · obtain rfl := eq_of_opcode_of_mode (j := .bvsRel off) hop hmode
      exact ⟨fun f => f.v, rfl, rfl, ht⟩
  rw [he]
  refine ⟨fun hover => ?overflow, fun hfit hc => ?notTaken, fun hfit hc hout => ?outside, fun hfit hc p t hp ht => ?taken⟩
  case overflow => exact perform_faults i _ s s _ (branch_overflow 2 cond off hover)
  case notTaken =>
    have hpc : s.pc + 2 ≠ s.pc := by bv_omega
    exact (perform_ends i _ s _ hctl (branch_not_taken 2 cond off hfit hc)).1 (.inl hpc)
  case outside => exact perform_faults i _ s s _ (branch_target_error 2 cond off hfit hc hdest hout)
  case taken =>
    subst ht
    exact perform_ends i _ s _ hctl (branch_target_ok 2 cond off hfit hc (hp.trans hdest))

/-! ## Jumps -/

theorem jump_apply (base : Nat) {mode : AddrMode} {s : State} {p : Addr} (h : (ea mode).run s = .ok p s) :
    (jump base mode).run s = .ok () { s with pc := p, cycleCount := s.cycleCount + base } := by
  simp only [jump, Exec.run_bind, h, setPc_apply, addCycles_apply]
  rfl

/-- Settles O28: both opcodes are the jump to the effective address of their mode. -/
theorem jumpSetsPc : Obligations.JumpSetsPc := by
  intro i s n h
  obtain ⟨he, hctl⟩ : exec i s = perform i (jump n i.mode) s ∧ i.isControlFlow = true := by
    rcases h with ⟨hop, rfl⟩ | ⟨hop, rfl⟩
    · obtain ⟨b1, b2, rfl⟩ := exists_operands_of_opcode (f := fun b1 b2 => .jmpAbs (addrOfBytes b1 b2))
        (fun _ _ => rfl) hop
      exact ⟨rfl, rfl⟩
    · obtain ⟨b1, b2, rfl⟩ := exists_operands_of_opcode (f := fun b1 b2 => .jmpInd (addrOfBytes b1 b2))
        (fun _ _ => rfl) hop
      exact ⟨rfl, rfl⟩
  rw [he]
  refine ⟨fun p t hp ht => ?_, fun k hk => perform_faults i _ s s k (Exec.run_bind_error _ hk)⟩
  subst ht
  exact perform_ends i _ s _ hctl (jump_apply n hp)

/-! ## Subroutines -/

/-- JSR pushes the address of its last byte, and its PC and cycles are written where the push does not look: it is that
push in the state that stands at the target already. -/
theorem jumpSubroutine_eq_push16 (base : Nat) (target : Addr) {s : State} (h : s.pc.toNat + 2 ≤ 0xFFFF) :
    (jumpSubroutine base target).run s
      = (push16 (s.pc + 2)).run { s with pc := target, cycleCount := s.cycleCount + base } := by
  simp only [jumpSubroutine, Exec.run_bind, getPc_apply, addr16_next_two s.pc s h, push16_apply, setPc_apply,
    addCycles_apply]
  rfl

/-- JSR's return address lies past the address space. -/
theorem jumpSubroutine_overflow (base : Nat) (target : Addr) {s : State} (h : 0xFFFF < s.pc.toNat + 2) :
    (jumpSubroutine base target).run s = .error (.outOfRange (s.pc.toNat + 2) none) s := by
  simp only [jumpSubroutine, Exec.run_bind, getPc_apply, addr16_error (s.pc.toNat + 2 : Int) s (by omega)]

/-- RTS, the pulled address known, continues at the address after it. -/
theorem returnSubroutine_ok (base : Nat) {s t : State} {p : Addr} (hp : pull16.run s = .ok p t)
    (h : p.toNat + 1 ≤ 0xFFFF) :
    (returnSubroutine base).run s = .ok () { t with pc := p + 1, cycleCount := t.cycleCount + base } := by
  simp only [returnSubroutine, Exec.run_bind, hp, addr16_next_one p t h, setPc_apply, addCycles_apply]
  rfl

/-- RTS of a pulled 0xFFFF. -/
theorem returnSubroutine_overflow (base : Nat) {s t : State} {p : Addr} (hp : pull16.run s = .ok p t)
    (h : p.toNat = 0xFFFF) : (returnSubroutine base).run s = .error (.outOfRange 0x10000 none) t := by
  have haddr : (addr16 ((p.toNat : Int) + 1)).run t = .error (.outOfRange 0x10000 none) t := by
    rw [h]
    exact addr16_error _ t (by decide)
  simp only [returnSubroutine, Exec.run_bind, hp, haddr]

/-- Settles O29, by what the push of the return address leaves. -/
theorem jsrPushesReturnAddress : Obligations.JsrPushesReturnAddress := by
  intro target s t ht
  rw [exec_jsr]
  have hrun : s.pc.toNat + 2 ≤ 0xFFFF → (jumpSubroutine 6 target).run s = .ok () t := fun hfit => by
    have hsp : s.sp - 1 - 1 = s.sp - 2 := by bv_omega
    rw [jumpSubroutine_eq_push16 6 target hfit, push16_apply, hsp, ht]
  have hpc : t.pc = target := by rw [ht]
  refine ⟨fun hfit h => ?_, fun hfit h hloop => ?_, fun hover => ?_⟩
  · exact (perform_ends _ _ s t rfl (hrun hfit)).1 (hpc ▸ h)
  · exact (perform_ends _ _ s t rfl (hrun hfit)).2 (hpc.trans h) hloop
  · exact perform_faults _ _ s s _ (jumpSubroutine_overflow 6 target hover)

/-- Settles O30, by what the pull of the return address gives. -/
theorem rtsPullsReturnAddress : Obligations.RtsPullsReturnAddress := by
  intro s t p hp ht
  obtain ⟨w, hw, hpull⟩ : ∃ w : Addr, w.toNat = p ∧ pull16.run s = .ok w { s with sp := s.sp + 2 } := by
    have hsp : s.sp + 1 + 1 = s.sp + 2 := BitVec.add_assoc s.sp 1 1
    have h := pull16_apply s
    rw [hsp] at h
    exact ⟨_, (addrOfBytes_toNat _ _).trans hp.symm, h⟩
  subst hw ht
  rw [exec_rts]
  have hends := fun h : w.toNat < 0xFFFF => perform_ends .rts _ s _ rfl (returnSubroutine_ok 6 hpull h)
  rw [ofNat_toNat_add]
  exact ⟨fun h => (hends h).1, fun h => (hends h).2,
    fun h => perform_faults .rts _ s _ _ (returnSubroutine_overflow 6 hpull h)⟩

/-- Settles O31: the pull gives back what the push stored, and SP. -/
theorem jsrThenRtsReturns : Obligations.JsrThenRtsReturns := by
  intro target s u hwf hloop hfit hjsr
  have hpush : (jumpSubroutine 6 target).run s = .ok () u := effect_of_exec hjsr
  rw [jumpSubroutine_eq_push16 6 target (by omega)] at hpush
  have hpull : pull16.run u = .ok (s.pc + 2) { u with sp := s.sp } :=
    pull16_push16 (s := { s with pc := target, cycleCount := s.cycleCount + 6 }) hwf hpush
  have hreturn := returnSubroutine_ok 6 hpull (by rw [toNat_add_two (by omega)]; exact hfit)
  have hpc : s.pc + 2 + 1 = s.pc + 3 := BitVec.add_assoc s.pc 2 1
  rw [hpc] at hreturn
  rw [push16_apply] at hpush
  cases hpush
  exact (perform_ends .rts _ _ _ rfl hreturn).1 (.inr hloop)

end Sys2Proof.Machine

/-! The family `44_stack_flags_system`: the stack and flag instructions, NOP, BRK and RTI, and what each leaves to the next
dispatch. -/

namespace Sys2Proof.Machine

open Sys2Proof

/-! ## The next dispatch -/

/-- With no NMI pending, and no IRQ pending or I set, the next dispatch runs an instruction (60_exceptions.md R253). -/
theorem dispatch_eq_stepInstr {s : State} (hn : s.nmiPending = false) (h : s.irqPending = false ∨ s.flags.i = true) :
    dispatch s = stepInstr s := by
  have hirq : takesIrq s = false := by
    rcases h with h | h <;> simp [takesIrq, h]
  rw [dispatch, takesNmi, hn, hirq]
  rfl

/-- An instruction whose two endings are known, and which completes, leaves the state of the common ending. -/
theorem eq_advanced_of_ends {i : Instr} {s t u : State} {k : FaultKind}
    (hends : (Fits i s → exec i s = .next (t.advanced i)) ∧ (¬Fits i s → exec i s = faultOf s i k t))
    (h : exec i s = .next u) : u = t.advanced i := by
  obtain ⟨hfits, hover⟩ := hends
  by_cases hfit : Fits i s
  · rw [hfits hfit] at h
    cases h
    rfl
  · rw [hover hfit] at h
    cases h

/-- I of a pulled status byte is its bit 2 (10_state.md R38). -/
theorem pulledFlags_i (q : Byte) (f : Flags) : (pulledFlags q f).i = decide (q.toNat / 4 % 2 = 1) :=
  congrArg Flags.i (pulledFlags_eq q f)

/-- A pulled status byte with bit 2 clear lets an IRQ be taken. -/
theorem pulledFlags_i_eq_false {q : Byte} (f : Flags) (h : q.toNat / 4 % 2 = 0) : (pulledFlags q f).i = false := by
  rw [pulledFlags_i, h]
  rfl

/-! ## Stack instructions -/

theorem pushA_apply (s : State) :
    pushA.run s = .ok () { s with ram := s.ram.write (0x0100 + s.sp.toNat) s.a, sp := s.sp - 1 } :=
  push_apply s.a s

theorem pushStatus_apply (s : State) :
    pushStatus.run s
      = .ok () { s with ram := s.ram.write (0x0100 + s.sp.toNat) (statusByte true s.flags), sp := s.sp - 1 } :=
  push_apply (statusByte true s.flags) s

theorem pullA_apply (s : State) :
    pullA.run s = .ok () { s with
      a := s.ram.read (0x0100 + (s.sp + 1).toNat), sp := s.sp + 1
      flags := s.flags.nz (s.ram.read (0x0100 + (s.sp + 1).toNat)) } := by
  simp only [pullA, Exec.run_bind, pull_apply, setReg_apply, updateFlags_apply, setNZ_eq]
  rfl

theorem pullStatus_apply (s : State) :
    pullStatus.run s = .ok () { s with
      sp := s.sp + 1, flags := pulledFlags (s.ram.read (0x0100 + (s.sp + 1).toNat)) s.flags } := by
  simp only [pullStatus, Exec.run_bind, pull_apply, updateFlags_apply]
  rfl

/-- Settles O33, instruction by instruction; after PLP the next dispatch is decided by bit 2 of the pulled byte. -/
theorem stackInstructions : Obligations.StackInstructions := by
  intro i s t q hq h
  subst hq
  rw [← and_assoc]
  refine ⟨?ends, fun hop u hu hn hirq => ?nextDispatch⟩
  case ends =>
    rcases h with ⟨hop, rfl⟩ | ⟨hop, rfl⟩ | ⟨hop, rfl⟩ | ⟨hop, rfl⟩
    · exact exec_plain_ends (mnemonic_of_eq .pha (by decide) hop) rfl (pushA_apply s) rfl
    · exact exec_plain_ends (mnemonic_of_eq .php (by decide) hop) rfl (pushStatus_apply s) rfl
    · exact exec_plain_ends (mnemonic_of_eq .pla (by decide) hop) rfl (pullA_apply s) rfl
    · exact exec_plain_ends (mnemonic_of_eq .plp (by decide) hop) rfl (pullStatus_apply s) rfl
  case nextDispatch =>
    have hplp := exec_plain_ends (mnemonic_of_eq .plp (by decide) hop) rfl (pullStatus_apply s) rfl
    obtain rfl := eq_advanced_of_ends hplp hu
    exact ⟨fun hclear => dispatch_takes_irq _ hn hirq (pulledFlags_i_eq_false _ hclear),
      fun hset => dispatch_eq_stepInstr hn (.inr ((pulledFlags_i _ _).trans (decide_eq_true hset)))⟩

/-! ## Flag instructions -/

/-- A one-byte instruction of 2 cycles that writes only the flags: it completes, or its PC update leaves the address space
at 0xFFFF. -/
theorem updateFlags_ends {i : Instr} (f : Flags → Flags) (s : State) (hlen : i.length = 1) (hbase : i.baseCycles = 2) :
    (s.pc.toNat + 1 ≤ 0xFFFF → straight i (updateFlags f) s
        = .next { s.withFlags (f s.flags) with pc := s.pc + 1, cycleCount := s.cycleCount + 2 })
      ∧ (s.pc = 0xFFFF → straight i (updateFlags f) s
        = faultOf s i (.outOfRange 0x10000 none) (s.withFlags (f s.flags))) := by
  have hends := straight_ends i _ s _ (updateFlags_apply f s) rfl
  rw [Fits, State.advanced, hlen, hbase] at hends
  refine ⟨hends.1, fun hpc => ?_⟩
  rw [hends.2 (by rw [hpc]; decide), hpc]
  rfl

/-- Settles O34: each opcode is one update of the flags, NOP the one that keeps them; after CLI and SEI the next dispatch
is decided by I. -/
theorem flagInstructionsAndNop : Obligations.FlagInstructionsAndNop := by
  intro i s t h
  rw [← and_assoc]
  refine ⟨?ends, fun hop u hu hn hirq => ?afterCli, fun hop u hu hn => ?afterSei⟩
  case ends =>
    obtain ⟨f, he, hlen, hbase, rfl⟩ : ∃ f, exec i s = straight i (updateFlags f) s ∧ i.length = 1
        ∧ i.baseCycles = 2 ∧ t = s.withFlags (f s.flags) := by
      rcases h with ⟨hop, ht⟩ | ⟨hop, ht⟩ | ⟨hop, ht⟩ | ⟨hop, ht⟩ | ⟨hop, ht⟩ | ⟨hop, ht⟩ | ⟨hop, ht⟩ | ⟨hop, ht⟩
      · obtain rfl := eq_of_opcode (j := .clc) (fun _ _ => rfl) hop
        exact ⟨_, rfl, rfl, rfl, ht⟩
      · obtain rfl := eq_of_opcode (j := .sec) (fun _ _ => rfl) hop
        exact ⟨_, rfl, rfl, rfl, ht⟩
      · obtain rfl := eq_of_opcode (j := .cli) (fun _ _ => rfl) hop
        exact ⟨_, rfl, rfl, rfl, ht⟩
      · obtain rfl := eq_of_opcode (j := .sei) (fun _ _ => rfl) hop
        exact ⟨_, rfl, rfl, rfl, ht⟩
      · obtain rfl := eq_of_opcode (j := .cld) (fun _ _ => rfl) hop
        exact ⟨_, rfl, rfl, rfl, ht⟩
      · obtain rfl := eq_of_opcode (j := .sed) (fun _ _ => rfl) hop
        exact ⟨_, rfl, rfl, rfl, ht⟩
      · obtain rfl := eq_of_opcode (j := .clv) (fun _ _ => rfl) hop
        exact ⟨_, rfl, rfl, rfl, ht⟩
      · obtain rfl := eq_of_opcode (j := .nop) (fun _ _ => rfl) hop
        exact ⟨id, rfl, rfl, rfl, ht⟩
    rw [he]
    exact updateFlags_ends f s hlen hbase
  case afterCli =>
    have hcli := exec_plain_ends (mnemonic_of_eq .cli (by decide) hop) rfl
      (updateFlags_apply (fun f => { f with i := false }) s) rfl
    obtain rfl := eq_advanced_of_ends hcli hu
    exact dispatch_takes_irq _ hn hirq rfl
  case afterSei =>
    have hsei := exec_plain_ends (mnemonic_of_eq .sei (by decide) hop) rfl
      (updateFlags_apply (fun f => { f with i := true }) s) rfl
    obtain rfl := eq_advanced_of_ends hsei hu
    exact dispatch_eq_stepInstr hn (.inr rfl)

/-! ## BRK and RTI -/

/-- What an entry leaves, SP counted from its value before the three pushes (60_exceptions.md R254). -/
theorem entryState_eq (ret : Addr) (b : Bool) (target : Addr) (s : State) :
    entryState ret b target s = { s with
      ram := ((s.ram.write (0x0100 + s.sp.toNat) (hiByte ret)).write (0x0100 + (s.sp - 1).toNat) (loByte ret)).write
        (0x0100 + (s.sp - 2).toNat) (statusByte b s.flags)
      sp := s.sp - 3, flags := { s.flags with i := true }, pc := target } := by
  have h2 : s.sp - 1 - 1 = s.sp - 2 := by bv_omega
  have h3 : s.sp - 2 - 1 = s.sp - 3 := by bv_omega
  rw [entryState, entryRam, h2, h3]

/-- BRK is the shared entry, its cycles written where the entry does not look. -/
theorem breakInterrupt_ok (base : Nat) {s : State} (h : s.pc.toNat + 2 ≤ 0xFFFF) :
    (breakInterrupt base).run s = .ok () (entryState (s.pc + 2) true
      (addrOfBytes (s.osRom.read 0x3FFE) (s.osRom.read 0x3FFF)) { s with cycleCount := s.cycleCount + base }) := by
  simp only [breakInterrupt, Exec.run_bind, getPc_apply, addr16_next_two s.pc s h, enterInterrupt_break, addCycles_apply]
  rfl

/-- BRK's return address lies past the address space. -/
theorem breakInterrupt_overflow (base : Nat) {s : State} (h : 0xFFFF < s.pc.toNat + 2) :
    (breakInterrupt base).run s = .error (.outOfRange (s.pc.toNat + 2) none) s := by
  simp only [breakInterrupt, Exec.run_bind, getPc_apply, addr16_error (s.pc.toNat + 2 : Int) s (by omega)]

/-- Settles O35, by what the shared entry leaves. -/
theorem brkTakesInterrupt : Obligations.BrkTakesInterrupt := by
  intro s t ht
  rw [exec_brk]
  have hrun : s.pc.toNat + 2 ≤ 0xFFFF → (breakInterrupt 7).run s = .ok () t := fun hfit => by
    rw [breakInterrupt_ok 7 hfit, entryState_eq, ht]
  have hends := fun hfit => perform_ends .brk _ s t rfl (hrun hfit)
  exact ⟨fun hfit => (hends hfit).1, fun hfit => (hends hfit).2,
    fun hover => perform_faults .brk _ s s _ (breakInterrupt_overflow 7 hover)⟩

/-- RTI is the shared return and its cycles. -/
theorem returnInterrupt_of_return (base : Nat) {s t : State} (h : returnFromInterrupt.run s = .ok () t) :
    (returnInterrupt base).run s = .ok () { t with cycleCount := t.cycleCount + base } := by
  simp only [returnInterrupt, Exec.run_bind, h, addCycles_apply]
  rfl

/-- Settles O36, by what the shared return pulls. -/
theorem rtiReturnsFromInterrupt : Obligations.RtiReturnsFromInterrupt := by
  intro s t ht
  have hrun : (returnInterrupt 6).run s = .ok () t := by
    have h2 : s.sp + 1 + 1 = s.sp + 2 := BitVec.add_assoc s.sp 1 1
    have h3 : s.sp + 2 + 1 = s.sp + 3 := BitVec.add_assoc s.sp 2 1
    rw [returnInterrupt_of_return 6 (returnFromInterrupt_apply s), h2, h3, ht]
  rw [exec_rti, ← and_assoc]
  refine ⟨perform_ends .rti _ s t rfl hrun, fun hn hirq hclear => ?_⟩
  subst ht
  exact dispatch_takes_irq _ hn hirq (pulledFlags_i_eq_false _ hclear)

/-! ## The round trip -/

/-- The three bytes an entry pushes lie at different addresses of page 1, also where SP wraps: each is read back. -/
theorem read_entryRam (ret : Addr) (b : Bool) {s : State} (hwf : s.ram.wf 0x8000 = true) :
    (entryRam ret b s).read (0x0100 + (s.sp - 1 - 1).toNat) = statusByte b s.flags
      ∧ (entryRam ret b s).read (0x0100 + (s.sp - 1).toNat) = loByte ret
      ∧ (entryRam ret b s).read (0x0100 + s.sp.toNat) = hiByte ret := by
  have h10 : 0x0100 + s.sp.toNat ≠ 0x0100 + (s.sp - 1).toNat := by bv_omega
  have h20 : 0x0100 + s.sp.toNat ≠ 0x0100 + (s.sp - 1 - 1).toNat := by bv_omega
  have h21 : 0x0100 + (s.sp - 1).toNat ≠ 0x0100 + (s.sp - 1 - 1).toNat := by bv_omega
  have hwf1 := Memory.write_wf s.ram 0x8000 (0x0100 + s.sp.toNat) (hiByte ret) hwf (by omega)
  have hwf2 := Memory.write_wf _ 0x8000 (0x0100 + (s.sp - 1).toNat) (loByte ret) hwf1 (by omega)
  rw [entryRam]
  refine ⟨Memory.read_write _ _ _ _ hwf2, ?_, ?_⟩
  · rw [Memory.read_write_other _ _ _ _ h21, Memory.read_write _ _ _ _ hwf1]
  · rw [Memory.read_write_other _ _ _ _ h20, Memory.read_write_other _ _ _ _ h10, Memory.read_write _ _ _ _ hwf]

/-- The shared return undoes the shared entry but for the stacked bytes, and goes to the return address. -/
theorem returnFromInterrupt_entryState (ret : Addr) (b : Bool) (target : Addr) {s : State}
    (hwf : s.ram.wf 0x8000 = true) :
    returnFromInterrupt.run (entryState ret b target s) = .ok () { s with ram := entryRam ret b s, pc := ret } := by
  obtain ⟨hstatus, hlo, hhi⟩ := read_entryRam ret b hwf
  have h (p : Byte) : p - 1 + 1 = p := BitVec.sub_add_cancel p 1
  rw [returnFromInterrupt_apply]
  simp only [entryState, h, hstatus, hlo, hhi, addrOfBytes_lo_hi, pulledFlags_statusByte]

/-- Settles O37: the entry's return undone by the shared return, with the cycles of both. -/
theorem brkThenRtiRestores : Obligations.BrkThenRtiRestores := by
  intro s u hwf hloop h
  have hbrk : (breakInterrupt 7).run s = .ok () u := effect_of_exec h
  have hfit : s.pc.toNat + 2 ≤ 0xFFFF := by
    by_contra hover
    rw [breakInterrupt_overflow 7 (by omega)] at hbrk
    cases hbrk
  rw [breakInterrupt_ok 7 hfit] at hbrk
  cases hbrk
  have hreturn := returnInterrupt_of_return 6 (returnFromInterrupt_entryState (s.pc + 2) true
    (addrOfBytes (s.osRom.read 0x3FFE) (s.osRom.read 0x3FFF))
    (s := { s with cycleCount := s.cycleCount + 7 }) hwf)
  exact (perform_ends .rti _ _ _ rfl hreturn).1 (.inr hloop)

end Sys2Proof.Machine

/-! The family `60_exceptions`: faults, the interrupt entry, the run loop, the VIA register file and the timers. -/

namespace Sys2Proof.Machine

open Sys2Proof

/-! ## The operand fetch at the top of memory -/

/-- An opcode byte of the table gives a length of 1 to 3. -/
theorem opcodeLength_bounds {op : Byte} {n : Nat} (h : opcodeLength op = some n) : 1 ≤ n ∧ n ≤ 3 := by
  obtain ⟨i, -, rfl⟩ := Option.map_eq_some_iff.mp h
  exact length_pos i

/-- The top page of memory holds no ignored window. -/
theorem readable_topPage (s : State) {a : Addr} (h : 0xFF00 ≤ a.toNat) : Readable s a := fun hr => by
  have hi := (isIgnored_iff _).mp (isIgnored_of_region hr.2)
  omega

/-- The operand fetch of `n` bytes that would reach past 0xFFFF raises at the first address past it. -/
theorem fetchOperands_pastTop {p : Addr} {n : Nat} (s : State) (hn : n ≤ 2) (h : 0xFFFF < p.toNat + n) :
    (fetchOperands p n).run s = .error (.outOfRange 0x10000 none) s := by
  have hp := p.isLt
  obtain ⟨rfl, h1⟩ | ⟨rfl, h1⟩ | ⟨rfl, h1⟩ :
      (n = 1 ∧ p.toNat = 0xFFFF) ∨ (n = 2 ∧ p.toNat = 0xFFFF) ∨ (n = 2 ∧ p.toNat = 0xFFFE) := by
    omega
  · obtain rfl : p = 0xFFFF := BitVec.eq_of_toNat_eq h1
    exact Exec.run_bind_error _ (addr16_error 0x10000 s (by decide))
  · obtain rfl : p = 0xFFFF := BitVec.eq_of_toNat_eq h1
    exact Exec.run_bind_error _ (addr16_error 0x10000 s (by decide))
  · obtain rfl : p = 0xFFFE := BitVec.eq_of_toNat_eq h1
    have hfirst : (addr16 (((0xFFFE : Addr).toNat : Int) + 1)).run s = .ok 0xFFFF s := addr16_ok 0xFFFF s (by decide)
    have hread := memRead_readable (readable_topPage s (a := 0xFFFF) (by decide))
    have hsecond : (addr16 (((0xFFFE : Addr).toNat : Int) + 2)).run s = .error (.outOfRange 0x10000 none) s :=
      addr16_error 0x10000 s (by decide)
    simp only [fetchOperands, Exec.run_bind, hfirst, hread, hsecond]

/-- Settles O5: the opcode byte lies in the top page, which can be read, and the operand fetch raises. -/
theorem operandFetchPastTopFaults : Obligations.OperandFetchPastTopFaults := by
  intro s n hn htop
  have hlen := opcodeLength_bounds hn
  have hop := memRead_readable (readable_topPage s (a := s.pc) (by omega))
  have hargs := fetchOperands_pastTop (p := s.pc) (n := n - 1) s (by omega) (by omega)
  have hfetch : fetch s = .raised (.outOfRange 0x10000 none) (some (s.peek s.pc)) := by
    simp only [fetch, hop, hn, hargs]
  rw [stepInstr, hfetch]
  rfl

/-! ## Writes to ROM -/

/-- A write to the paged-ROM window raises (20_memory.md R71). -/
theorem memWrite_pagedRom {a : Addr} (v : Byte) (s : State) (h1 : 0x8000 ≤ a.toNat) (h2 : a.toNat ≤ 0xBFFF) :
    (memWrite a v).run s = .error (.readOnlyViolation (.pagedRom s.selectedBank) a v) s := by
  rw [addressDecoderRoutesWrites a v s, if_neg (by omega), if_neg (by omega), if_neg (by omega), if_neg (by omega),
    if_neg (by omega), if_neg (by omega)]

/-- A write to OS ROM, outside every window laid over it, raises (20_memory.md R69). -/
theorem memWrite_osRom {a : Addr} (v : Byte) (s : State) (h : 0xC000 ≤ a.toNat) (hi : isIgnored a.toNat = false)
    (hbank : a.toNat ≠ 0xFE30) (hsystem : ¬(0xFE40 ≤ a.toNat ∧ a.toNat ≤ 0xFE4F))
    (huser : ¬(0xFE60 ≤ a.toNat ∧ a.toNat ≤ 0xFE6F)) :
    (memWrite a v).run s = .error (.readOnlyViolation .osRom a v) s := by
  have hwindow := mt (isIgnored_iff a.toNat).mpr (Bool.eq_false_iff.mp hi)
  rw [addressDecoderRoutesWrites a v s, if_neg (by omega), if_neg hwindow, if_neg hsystem, if_neg huser, if_neg hbank,
    if_pos h]

theorem readable_of_isIgnored_eq_false (s : State) {a : Addr} (h : isIgnored a.toNat = false) : Readable s a :=
  readable_of_not_ignored s fun hr => by simp [isIgnored_of_region hr] at h

/-- A shift of memory at a readable address whose write raises faults there, and did nothing else. -/
theorem exec_memoryShift_faults {i : Instr} (op : Shift) {m : Mnemonic} {s : State} {a : Addr} {v : Byte}
    {k : FaultKind} (hi : i.mnemonic = m) (hm : m.isControlFlow = false) (hmode : i.mode ≠ .implied)
    (he : plainEffect m i.mode = shiftAny op i.mode) (hv : v.toNat = (op.byte (s.peek a) s.flags.c).toNat)
    (ha : (ea i.mode).run s = .ok a s) (hr : Readable s a) (hk : (memWrite a v).run s = .error k s) :
    exec i s = faultOf s i k s := by
  obtain rfl : v = op.byte (s.peek a) s.flags.c := BitVec.eq_of_toNat_eq hv
  refine exec_plain_faults hi hm ?_
  rw [he, shiftAny_mem op _ hmode, shiftMem_apply op ha hr]
  exact Exec.run_bind_error _ hk

/-- Settles O26: each instruction writes the given byte at its effective address, and a fault of that write is the
instruction's. -/
theorem romWritesFault : Obligations.RomWritesFault := by
  intro i s a v n hn h ha
  subst hn
  have hfault : ∀ k, isIgnored a.toNat = false → (memWrite a v).run s = .error k s →
      exec i s = faultOf s i k s := by
    intro k hig hk
    have hr := readable_of_isIgnored_eq_false s hig
    rcases h with ⟨hi, rfl⟩ | ⟨hi, rfl⟩ | ⟨hi, rfl⟩ | ⟨hi, hv⟩ | ⟨hi, hv⟩ |
      ⟨hmode, ⟨hi, hv⟩ | ⟨hi, hv⟩ | ⟨hi, hv⟩ | ⟨hi, hv⟩⟩
    · exact exec_plain_faults hi rfl ((store_apply .a i.mode s a ha).trans hk)
    · exact exec_plain_faults hi rfl ((store_apply .x i.mode s a ha).trans hk)
    · exact exec_plain_faults hi rfl ((store_apply .y i.mode s a ha).trans hk)
    · obtain rfl := eq_increment hv
      exact exec_plain_faults hi rfl ((modifyMem_apply increment ha hr).trans (Exec.run_bind_error _ hk))
    · obtain rfl := eq_decrement hv
      exact exec_plain_faults hi rfl ((modifyMem_apply decrement ha hr).trans (Exec.run_bind_error _ hk))
    · exact exec_memoryShift_faults .asl hi rfl hmode rfl (hv.trans (shift_byte_toNat .asl _ _).symm) ha hr hk
    · exact exec_memoryShift_faults .lsr hi rfl hmode rfl (hv.trans (shift_byte_toNat .lsr _ _).symm) ha hr hk
    · exact exec_memoryShift_faults .rol hi rfl hmode rfl (hv.trans (shift_byte_toNat .rol _ _).symm) ha hr hk
    · exact exec_memoryShift_faults .ror hi rfl hmode rfl (hv.trans (shift_byte_toNat .ror _ _).symm) ha hr hk
  exact ⟨fun h1 => hfault _ (isIgnored_pagedRom h1.2) (memWrite_pagedRom v s h1.1 h1.2),
    fun h1 hig hbank hsystem huser => hfault _ hig (memWrite_osRom v s h1 hig hbank hsystem huser)⟩

/-! ## The faults of an instruction -/

/-- An instruction that is no control-flow instruction moves PC: StuckCheck never stops it. -/
theorem pc_ne_of_plain_effect {i : Instr} {s t : State} (hc : i.isControlFlow = false)
    (h : (effect i).run s = .ok () t) : t.pc ≠ s.pc := by
  have he : effect i = (do plainEffect i.mnemonic i.mode; advance i.length i.baseCycles) := by simp [effect, hc]
  rw [he, Exec.run_bind] at h
  cases hb : (plainEffect i.mnemonic i.mode).run s with
  | error k u => rw [hb] at h; cases h
  | ok a u =>
    have hpc : u.pc = s.pc := ((Plain.plainEffect_of_instr i s).1 a u hb).2.1
    simp only [hb] at h
    by_cases hfit : u.pc.toNat + i.length ≤ 0xFFFF
    · rw [advance_ok _ _ u hfit] at h
      cases h
      exact hpc ▸ pc_add_length_ne u.pc i
    · rw [advance_error _ _ u (Nat.lt_of_not_le hfit)] at h
      cases h

/-- Settles O44, by the cases of an instruction; where a ReadOnlyViolation comes from is `exec_romFault`. -/
theorem instructionFaults : Obligations.InstructionFaults := by
  intro i s
  rcases exec_cases i s with ⟨t, ht, -⟩ | ⟨t, ht, he, hpc, hloop⟩ | ⟨k, t, ht, hk⟩
  · exact .inl ⟨t, ht⟩
  · have hc : i.isControlFlow = true := by
      by_contra hc
      exact pc_ne_of_plain_effect (by simpa using hc) he hpc
    exact .inr ⟨_, t, ht, .inr (.inr (.inr ⟨hloop hc, hc, rfl⟩))⟩
  · refine .inr ⟨k, t, ht, ?_⟩
    rcases hk with hrange | ⟨r, a, v, rfl⟩ | hignored
    · exact .inl hrange
    · obtain ⟨hmem, ha, hrom⟩ := exec_romFault i s t r a v ht
      exact .inr (.inl ⟨r, a, v, rfl, ha, hmem, hrom⟩)
    · exact .inr (.inr (.inl hignored))

/-! ## The interrupt entry -/

/-- Settles O38, by what an entry leaves. -/
theorem interruptEntry : Obligations.InterruptEntry := by
  intro s t ht
  have hentered : ∀ target, entered target s = { t with pc := target } := fun target => by
    rw [entered, entryState_eq, ht]
  refine ⟨fun hn => ?_, fun hn hirq hi => ?_, dispatch_eq_stepInstr⟩
  · rw [dispatch, takesNmi, if_pos hn, performEntry_nmi, hentered]
  · have htakes : takesIrq s = true := by simp [takesIrq, hn, hirq, hi]
    rw [dispatch, takesNmi, if_neg (by simp [hn]), if_pos htakes, performEntry_irq, hentered]

/-- An interrupt taken is the shared entry at PC, its latches and cycles written where the entry does not look. -/
theorem dispatch_eq_entryState {s : State} (h : s.nmiPending = true ∨ (s.irqPending = true ∧ s.flags.i = false)) :
    ∃ target irq nmi, dispatch s = .next (entryState s.pc false target
      { s with irqPending := irq, nmiPending := nmi, cycleCount := s.cycleCount + 7 }) := by
  obtain ⟨hnmi, hirq, -⟩ := interruptEntry s _ rfl
  cases hn : s.nmiPending with
  | true => exact ⟨_, s.irqPending, false, (hnmi hn).trans (by rw [entryState_eq])⟩
  | false =>
    obtain ⟨hq, hi⟩ := h.resolve_left (by simp [hn])
    exact ⟨_, false, s.nmiPending, (hirq hn hq hi).trans (by rw [entryState_eq])⟩

/-- Settles O39: the shared return undoes the shared entry but for the stacked bytes. -/
theorem irqThenRtiResumes : Obligations.IrqThenRtiResumes := by
  intro s u hwf hloop htaken h
  obtain ⟨target, irq, nmi, hd⟩ := dispatch_eq_entryState htaken
  rw [hd] at h
  cases h
  have hreturn := returnInterrupt_of_return 6 (returnFromInterrupt_entryState s.pc false target
    (s := { s with irqPending := irq, nmiPending := nmi, cycleCount := s.cycleCount + 7 }) hwf)
  exact (perform_ends .rti _ _ _ rfl hreturn).1 (.inr hloop)

/-! ## The run loop -/

/-- A running machine that no cancel stops opens a batch if none is open and dispatches in it (60_exceptions.md R260,
R262). -/
theorem step_eq_dispatchInBatch {s : State} (hr : s.run = .running)
    (hc : s.batch ≠ none ∨ s.cancelRequested = false) :
    step s = dispatchInBatch (openBatch s) := by
  have hcancel : cancels s = false := by
    rcases hc with hb | hc
    · rw [cancels, Option.isNone_eq_false_iff.mpr (Option.isSome_iff_ne_none.mpr hb)]
      rfl
    · rw [cancels, hc, Bool.and_false]
  rw [step, runLoopTurn, hr]
  simp only [hcancel, Bool.false_eq_true, if_false]

/-- The batch that is open once one is opened: the one open before, or a new one with the next budget. -/
theorem openBatch_eq {s : State} {b : Batch}
    (h : s.batch = some b ∨ (s.batch = none ∧ b.used = 0 ∧ b.budget = nextBudget s)) :
    openBatch s = { s with batch := some b } := by
  obtain ⟨budget, used⟩ := b
  rcases h with h | ⟨h, rfl, rfl⟩ <;> simp only [openBatch, h]
  rw [← h]

/-- The fetch does not look at the batch: it reads the same bytes at the same PC. -/
theorem fetch_openBatch {s : State} {i : Instr} (h : fetch s = .instr i) : fetch (openBatch s) = .instr i := by
  rw [openBatch_only]
  exact (fetchReadsBytesAtPc _ i).mpr ((fetchReadsBytesAtPc s i).mp h)

/-- Settles O46: the dispatch keeps the open batch, whose accounting then compares the cycles used with the budget. -/
theorem batchRunsToItsBudget : Obligations.BatchRunsToItsBudget := by
  intro s t b hr hc hb hd
  have hopen : openBatch s = { s with batch := some b } := openBatch_eq hb
  have hbatch : t.batch = some b := (dispatch_frame _ t hd).frame.batch
  rw [step_eq_dispatchInBatch hr hc, hopen]
  simp only [dispatchInBatch, hd, account, hbatch, ge_iff_le, ← Nat.not_lt, ite_not]

/-- Settles O47: only cpuTick and the key flag enter into what a batch end writes, and cpuTick keeps the latches and the
key flag. -/
theorem batchEndMergesInterrupts : Obligations.BatchEndMergesInterrupts := by
  intro s u st n h
  have htick := cpuTick_frame n s
  rw [h] at htick
  obtain ⟨hframe, hnmi, -⟩ := htick
  have hu : u = { s with
    systemVia := u.systemVia, userVia := u.userVia, remainder := u.remainder, frameRemaining := u.frameRemaining
    repaintRequests := u.repaintRequests } := hframe.only
  have hkey : u.keyPending = s.keyPending := by rw [hu]
  have hirq : u.irqPending = s.irqPending := by rw [hu]
  have hlatch : u.nmiPending = s.nmiPending := by rw [hu]
  refine ⟨?_, hu, hnmi⟩
  simp only [batchEnd, h, hkey, hirq, hlatch, Via.forceIfr]

/-- Settles O48: the batch end consumes the key and latches IRQ, and the next dispatch is decided by I. -/
theorem keyPressInterruptsAtBatchEnd : Obligations.KeyPressInterruptsAtBatchEnd := by
  intro s t n hn ht
  obtain ⟨u, st, hcpu⟩ : ∃ u st, cpuTick n (hostSetPendingInterrupt s) = (u, st) := ⟨_, _, rfl⟩
  obtain ⟨hend, hu, hst⟩ := batchEndMergesInterrupts _ u st n hcpu
  have hkey : (hostSetPendingInterrupt s).keyPending = true := rfl
  have hnmi : (hostSetPendingInterrupt s).nmiPending = false := hn
  rw [← ht, hkey, hnmi, hst, Bool.or_true, if_pos rfl, hu] at hend
  obtain ⟨-, hirq, hwait⟩ := interruptEntry t _ rfl
  subst hend
  exact ⟨rfl, rfl, rfl, fun hi => ⟨_, hirq rfl rfl hi, rfl, rfl, rfl, rfl, rfl⟩, fun hi => hwait rfl (.inr hi)⟩

/-- Settles O45: with nothing to take, the dispatch in the open batch is the fetched instruction's. -/
theorem stepRunsDecodedInstruction : Obligations.StepRunsDecodedInstruction := by
  intro s i hr hc hn hi hf
  have hnothing : (openBatch s).nmiPending = false
      ∧ ((openBatch s).irqPending = false ∨ (openBatch s).flags.i = true)
      ∧ (openBatch s).cycleCount = s.cycleCount := by
    rw [openBatch_only]
    exact ⟨hn, hi, rfl⟩
  obtain ⟨hn', hi', hcycles⟩ := hnothing
  have hd : dispatch (openBatch s) = exec i (openBatch s) := by
    rw [dispatch_eq_stepInstr hn' hi', stepInstr, fetch_openBatch hf]
  rw [step_eq_dispatchInBatch hr hc, dispatchInBatch, hd, hcycles]
  cases exec i (openBatch s) <;> rfl

/-- Settles O49: a cancel stops the machine only before a batch, and a dispatch keeps it running. -/
theorem cancelAndStop : Obligations.CancelAndStop := by
  intro s
  refine ⟨fun hr hb hc => ?_, fun t hr hb h => ?_, fun hr => ?_, fun r hr => ?_⟩
  · rw [step, runLoopTurn, hr, cancels, hb, hc]
    rfl
  · rcases step_cases s t h with ⟨-, hb', -⟩ | ⟨-, u, b, hd, -, -, hend⟩
    · exact absurd hb' hb
    · rw [openBatch_only] at hd
      have hrun : u.run = .running := (dispatch_frame _ u hd).frame.run.trans hr
      rcases hend with ⟨-, rfl⟩ | ⟨-, rfl⟩
      · exact (congrArg State.run (batchEnd_only _ u)).trans hrun
      · exact hrun
  · rw [step, runLoopTurn, hr]
  · rw [step, runLoopTurn, hr]

/-! ## The VIA register file -/

/-- IER reads back as stored, but for bit 7. -/
theorem Via.get_ier_getLsbD (via : Via) {k : Nat} (hk : k < 7) : (via.get 0xE).getLsbD k = via.ier.getLsbD k := by
  have h80 : (0x80 : Byte).getLsbD k = false := by interval_cases k <;> rfl
  rw [Via.get, BitVec.getLsbD_or, h80, Bool.or_false]

/-- A write of IER sets or clears the bits that are set in the byte (60_exceptions.md R275). -/
theorem ierWrite_getLsbD (ier v : Byte) {k : Nat} (hk : k < 7) :
    (ierWrite ier v).getLsbD k
      = if 0x80 ≤ v.toNat then ier.getLsbD k || v.getLsbD k else ier.getLsbD k && !v.getLsbD k := by
  have h7F : (0x7F : Byte).getLsbD k = true := by interval_cases k <;> rfl
  simp only [ierWrite, getLsbD_seven, decide_eq_true_eq]
  split <;>
    simp only [BitVec.getLsbD_or, BitVec.getLsbD_and, BitVec.getLsbD_xor, h7F, Bool.and_true, Bool.true_xor]

/-- A register file has no offset past 0xF (60_exceptions.md R286). -/
theorem Via.get_set_pastTop (via : Via) {o : Nat} (v : Byte) (h : 0xF < o) : via.get o = 0 ∧ via.set o v = via := by
  unfold Via.get Via.set
  constructor <;> split <;> first | omega | rfl

/-- Settles O51, by the laws of a register write; IER bit by bit. -/
theorem viaRegisterFile : Obligations.ViaRegisterFile := by
  intro via o v
  refine ⟨fun ho hi => Via.get_set_same via o v (Nat.lt_succ_of_le ho) hi, fun p => Via.get_set_other via o p v, ?_,
    fun k hk => ⟨Via.get_ier_getLsbD via hk, ?_⟩, Via.ier_set via o v, rfl, Via.get_set_pastTop via v⟩
  · rw [Via.get, BitVec.getLsbD_or]
    exact Bool.or_true _
  · rw [Via.get_ier_getLsbD _ hk]
    exact ierWrite_getLsbD via.ier v hk

/-- The control bits of a byte, from bit `k` up, as its quotient. -/
theorem controlLine_extractLsb' (v : Byte) (k : Nat) (line : Bool) :
    controlLine (v.extractLsb' k 3) line
      = if v.toNat / 2 ^ k % 8 = 6 then false else if v.toNat / 2 ^ k % 8 / 4 = 1 then true else line := by
  have hfield : (v.extractLsb' k 3).toNat = v.toNat / 2 ^ k % 8 := by
    rw [BitVec.extractLsb'_toNat, Nat.shiftRight_eq_div_pow]
  have hclear : v.extractLsb' k 3 = 0b110 ↔ v.toNat / 2 ^ k % 8 = 6 := by
    rw [← hfield, ← BitVec.toNat_inj]
    rfl
  have hset : (v.extractLsb' k 3).getLsbD 2 = true ↔ v.toNat / 2 ^ k % 8 / 4 = 1 := by
    rw [BitVec.getLsbD, Nat.testBit_eq_decide_div_mod_eq, hfield, decide_eq_true_iff]
    omega
  simp only [controlLine, hclear, hset]

/-- A 16-bit word with its low byte replaced. -/
theorem replaceLowByte_eq (p : Addr) (b : Byte) : (p &&& 0xFF00) ||| zext16 b = addrOfBytes b (hiByte p) := by
  apply BitVec.eq_of_getLsbD_eq
  intro k hk
  have hmask : (0xFF00 : Addr).getLsbD k = decide (8 ≤ k) := by interval_cases k <;> rfl
  rw [BitVec.getLsbD_or, BitVec.getLsbD_and, hmask, zext16, BitVec.getLsbD_setWidth, addrOfBytes,
    BitVec.getLsbD_append, hiByte, BitVec.getLsbD_extractLsb']
  by_cases h : k < 8
  · simp [h, hk, Nat.not_le.mpr h]
  · have hk8 : k - 8 < 8 := by omega
    simp [h, hk8, Nat.le_of_not_lt h]

/-- A 16-bit word with its high byte replaced. -/
theorem replaceHighByte_eq (p : Addr) (b : Byte) :
    (zext16 b <<< 8) ||| (p &&& 0x00FF) = addrOfBytes (loByte p) b := by
  apply BitVec.eq_of_getLsbD_eq
  intro k hk
  have hmask : (0x00FF : Addr).getLsbD k = decide (k < 8) := by interval_cases k <;> rfl
  rw [BitVec.getLsbD_or, BitVec.getLsbD_and, hmask, BitVec.getLsbD_shiftLeft, zext16, BitVec.getLsbD_setWidth,
    addrOfBytes, BitVec.getLsbD_append, loByte, BitVec.getLsbD_extractLsb']
  by_cases h : k < 8
  · simp [h]
  · have hk8 : k - 8 < 16 := by omega
    simp [h, hk, hk8]

theorem T1.withLatchLow_toNat (t : T1) (v : Byte) :
    (t.withLatchLow v).latch.toNat = t.latch.toNat / 256 * 256 + v.toNat := by
  have hlt : t.latch.toNat / 256 < 2 ^ 8 := by omega
  rw [T1.withLatchLow, replaceLowByte_eq, addrOfBytes_toNat, hiByte_eq, BitVec.toNat_ofNat, Nat.mod_eq_of_lt hlt]
  omega

theorem T1.withLatchHigh_toNat (t : T1) (v : Byte) :
    (t.withLatchHigh v).latch.toNat = 256 * v.toNat + t.latch.toNat % 256 := by
  rw [T1.withLatchHigh, replaceHighByte_eq, addrOfBytes_toNat, loByte_eq, BitVec.toNat_ofNat]
  omega

/-- The control lines follow a PCR write and no other. -/
theorem Via.set_controlLines_of_ne (via : Via) {o : Nat} (v : Byte) (h : o ≠ 0xC) :
    (via.set o v).ca2 = via.ca2 ∧ (via.set o v).cb2 = via.cb2 := by
  unfold Via.set
  split <;> first | exact absurd rfl h | exact ⟨rfl, rfl⟩

/-- Timer 1 follows the writes of offsets 4-7 and no other. -/
theorem Via.set_t1_of_notMem (via : Via) {o : Nat} (v : Byte) (h : o ∉ [4, 5, 6, 7]) : (via.set o v).t1 = via.t1 := by
  unfold Via.set
  split <;> first | exact absurd (by decide) h | rfl

/-- Settles O52: a control line by the three control bits, a latch by the byte it keeps. -/
theorem viaControlLinesAndTimerWrites : Obligations.ViaControlLinesAndTimerWrites := by
  intro via o v
  have hlow := T1.withLatchLow_toNat via.t1 v
  have hhigh := T1.withLatchHigh_toNat via.t1 v
  refine ⟨Via.set_controlLines_of_ne via v, ?ca2, ?cb2, Via.set_t1_of_notMem via v, fun ho => ?low,
    ⟨_, hhigh, rfl, rfl⟩, rfl, fun r hr => ?readBack⟩
  case ca2 =>
    have htop : v.toNat / 2 % 8 / 4 = v.toNat / 8 % 2 := by
      rw [← Nat.div_div_eq_div_mul v.toNat 2 4]
      exact Nat.mod_mul_right_div_self (v.toNat / 2) 4 2
    exact (controlLine_extractLsb' v 1 via.ca2).trans (by rw [pow_one, htop])
  case cb2 =>
    have hfield : v.toNat / 2 ^ 5 % 8 = v.toNat / 32 := Nat.mod_eq_of_lt (by omega)
    have htop : v.toNat / 32 / 4 = v.toNat / 128 := by omega
    exact (controlLine_extractLsb' v 5 via.cb2).trans (by rw [hfield, htop])
  case low =>
    obtain rfl | rfl : o = 4 ∨ o = 6 := by simpa using ho
    · exact ⟨_, hlow, rfl⟩
    · exact ⟨_, hlow, rfl⟩
  case readBack =>
    have hr' : r < 16 ∧ r ≠ 0xE := by
      revert r
      decide
    exact Via.get_set_same via r v hr'.1 hr'.2

/-! ## Timer 1 -/

/-- The tick on which a running Timer 1 fires next (60_exceptions.md R292). -/
def T1.due (t : T1) : Nat := if t.reloadPending then t.latch.toNat + 2 else t.counter.toNat + 1

theorem T1.availableTicks_of_running {t : T1} (h : t.running = true) : t.availableTicks = some t.due := by
  rw [T1.availableTicks, if_pos h]
  rfl

theorem T1.availableTicks_eq_some_iff {t : T1} {n : Nat} :
    t.availableTicks = some n ↔ t.running = true ∧ t.due = n := by
  cases h : t.running with
  | false => simp [T1.availableTicks, h]
  | true => simp [T1.availableTicks_of_running h]

/-- A tick writes the counter and the reload flag only. -/
theorem T1.tick_keeps (t : T1) : t.tick.1.latch = t.latch ∧ t.tick.1.running = t.running := by
  unfold T1.tick
  split
  · exact ⟨rfl, rfl⟩
  · split <;> exact ⟨rfl, rfl⟩

/-- One tick: the timer fires if it is due and reloads two ticks later (60_exceptions.md R291); otherwise it is one tick
nearer to firing. -/
theorem T1.tick_cases (t : T1) :
    (t.due = 1 ∧ t.tick.2 = true ∧ t.tick.1.due = t.latch.toNat + 2)
      ∨ (1 < t.due ∧ t.tick.2 = false ∧ t.tick.1.due + 1 = t.due) := by
  cases hr : t.reloadPending with
  | true => exact .inr (by simp [T1.due, T1.tick, hr])
  | false =>
    by_cases hc : t.counter = 0
    · exact .inl (by simp [T1.due, T1.tick, hr, hc])
    · have hpos : t.counter.toNat ≠ 0 := fun h => hc (BitVec.eq_of_toNat_eq h)
      have hdec : (t.counter - 1).toNat + 1 = t.counter.toNat := by bv_omega
      refine .inr ?_
      simp only [T1.due, T1.tick, hr, hc, Bool.false_eq_true, if_false, hdec, and_true]
      omega

theorem T1.ticks_keeps (m : Nat) (t : T1) :
    (T1.ticks m t).1.latch = t.latch ∧ (T1.ticks m t).1.running = t.running := by
  induction m generalizing t with
  | zero => exact ⟨rfl, rfl⟩
  | succ m ih =>
    obtain ⟨hl, hr⟩ := t.tick_keeps
    exact ⟨(ih _).1.trans hl, (ih _).2.trans hr⟩

/-- Ticks before the one that is due do not fire; each brings the firing one tick nearer. -/
theorem T1.ticks_of_lt_due {m : Nat} {t : T1} (h : m < t.due) :
    (T1.ticks m t).2 = false ∧ (T1.ticks m t).1.due + m = t.due := by
  induction m generalizing t with
  | zero => exact ⟨rfl, rfl⟩
  | succ m ih =>
    rcases t.tick_cases with ⟨h1, -, -⟩ | ⟨-, hfired, hdue⟩
    · omega
    · obtain ⟨h2, h3⟩ := ih (t := t.tick.1) (by omega)
      simp only [T1.ticks, hfired, h2, Bool.or_self, true_and]
      omega

/-- A Timer 1 that is ticked to the tick it is due on has fired, also when more ticks follow. -/
theorem T1.ticks_fired_of_due_le {m : Nat} {t : T1} (h : t.due ≤ m) : (T1.ticks m t).2 = true := by
  induction m generalizing t with
  | zero => rcases t.tick_cases with ⟨h1, -⟩ | ⟨h1, -⟩ <;> omega
  | succ m ih =>
    rcases t.tick_cases with ⟨-, hfired, -⟩ | ⟨-, -, hdue⟩
    · simp only [T1.ticks, hfired, Bool.true_or]
    · simp only [T1.ticks, ih (t := t.tick.1) (by omega), Bool.or_true]

/-- Right after the tick it was due on, Timer 1 is due in latch + 2 ticks (60_exceptions.md R291). -/
theorem T1.due_ticks_due {m : Nat} {t : T1} (h : m = t.due) : (T1.ticks m t).1.due = t.latch.toNat + 2 := by
  induction m generalizing t with
  | zero => rcases t.tick_cases with ⟨h1, -⟩ | ⟨h1, -⟩ <;> omega
  | succ m ih =>
    rcases t.tick_cases with ⟨h1, -, hdue⟩ | ⟨-, -, hdue⟩
    · obtain rfl : m = 0 := by omega
      exact hdue
    · rw [T1.ticks, ih (t := t.tick.1) (by omega), t.tick_keeps.1]

/-- Bit 6 of a byte is Timer 1's. -/
theorem t1Bit_getLsbD : ∀ j < 8, t1Bit.getLsbD j = decide (j = 6) := by decide

/-- Settles O53: the ticks before, at and after the one Timer 1 is due on. -/
theorem timer1FiresOnItsTick : Obligations.Timer1FiresOnItsTick := by
  intro via m n v
  refine ⟨fun hr => ?stopped, fun hn => ?running, rfl⟩
  case stopped => simp [T1.availableTicks, Via.systemTick, hr, InterruptState.none]
  case running =>
    obtain ⟨hr, rfl⟩ := T1.availableTicks_eq_some_iff.mp hn
    obtain ⟨hlatch, hrunning⟩ := T1.ticks_keeps m via.t1
    rw [hr] at hrunning
    refine ⟨(T1.ticks m via.t1).1, hlatch, hrunning, fun hm => ?before, fun hm => ?fired, fun hm => ?next⟩
    case before =>
      obtain ⟨hfired, hdue⟩ := T1.ticks_of_lt_due hm
      refine ⟨?_, T1.availableTicks_eq_some_iff.mpr ⟨hrunning, by omega⟩⟩
      simp only [Via.systemTick, hr, hfired, if_true, Bool.false_eq_true, if_false, Bool.false_and]
    case fired =>
      simp only [Via.systemTick, hr, T1.ticks_fired_of_due_le hm, if_true, Bool.true_and,
        Via.flagSource_eq _ 6 t1Bit (by decide) t1Bit_getLsbD, Via.enabled_eq via 6 t1Bit (by decide) t1Bit_getLsbD]
      rfl
    case next => exact T1.availableTicks_eq_some_iff.mpr ⟨hrunning, T1.due_ticks_due hm⟩

/-! ## The frame timer -/

/-- Where `m` ticks of the frame timer leave it, and how many boundaries they pass (60_exceptions.md R294): the timer
counts down what is left of the present frame. -/
theorem frameTicks_eq {m r : Nat} (h1 : 1 ≤ r) (h2 : r ≤ 20000) :
    frameTicks m r = (20000 - (20000 - r + m) % 20000, (20000 - r + m) / 20000) := by
  induction m generalizing r with
  | zero =>
    rw [frameTicks, Prod.mk.injEq]
    omega
  | succ m ih =>
    by_cases hb : r - 1 = 0
    · rw [frameTicks, if_pos hb, Config.framePeriod, ih (by decide) le_rfl, Prod.mk.injEq]
      omega
    · rw [frameTicks, if_neg hb, ih (by omega) (by omega), Prod.mk.injEq]
      omega

/-- Bit 1 of a byte is the frame timer's (CA1). -/
theorem frameBit_getLsbD : ∀ j < 8, frameBit.getLsbD j = decide (j = 1) := by decide

/-- Settles O54, by the frame timer's closed form, with a boundary and without. -/
theorem frameTimerBoundaries : Obligations.FrameTimerBoundaries := by
  intro s m b h1 h2 hb
  refine ⟨rfl, ?_⟩
  have hpos : (b > 0) = (1 ≤ b) := rfl
  simp only [systemTick, frameSystemTick, frameTicks_eq h1 h2, ← hb, hpos]
  by_cases hirq : s.cfg.frameIrq = .systemViaCa1 ∧ 1 ≤ b
  · rw [if_pos hirq, if_pos hirq, decide_eq_true hirq, Via.flagSource_eq _ 1 frameBit (by decide) frameBit_getLsbD,
      Via.enabled_eq _ 1 frameBit (by decide) frameBit_getLsbD]
    rfl
  · rw [if_neg hirq, if_neg hirq, decide_eq_false hirq]
    rfl

/-! ## The TimerManager -/

/-- The state with the TimerManager's list of timers and its remainder replaced. -/
def State.withManager (s : State) (l : List TimerName) (r : Nat) : State := { s with timers := l, remainder := r }

/-- No timer looks at the TimerManager's own state, nor writes it. -/
theorem systemTick_withManager (tm : TimerName) (s : State) (n : Nat) (l : List TimerName) (r : Nat) :
    systemTick tm (s.withManager l r) n = ((systemTick tm s n).1.withManager l r, (systemTick tm s n).2) := by
  cases tm with
  | systemViaT1 => rfl
  | userViaT1 => rfl
  | frame =>
    simp only [systemTick, frameSystemTick, State.withManager]
    by_cases h : s.cfg.frameIrq = .systemViaCa1 ∧ (frameTicks n s.frameRemaining).2 > 0
    · simp only [h, and_self, if_true]
    · simp only [h, if_false]

theorem tickAll_withManager (ts : List TimerName) (s : State) (n : Nat) (l : List TimerName) (r : Nat) :
    tickAll ts n (s.withManager l r) = ((tickAll ts n s).1.withManager l r, (tickAll ts n s).2) := by
  induction ts generalizing s with
  | nil => rfl
  | cons tm ts ih => simp only [tickAll, systemTick_withManager, ih]

theorem any_congr_of_mem {α : Type} {l : List α} {p q : α → Bool} (h : ∀ x ∈ l, p x = q x) :
    l.any p = l.any q := by
  rw [Bool.eq_iff_iff, List.any_eq_true, List.any_eq_true]
  exact exists_congr fun x => and_congr_right fun hx => by rw [h x hx]

/-- Ticking a list of timers answers the OR of what each would answer alone. -/
theorem tickAll_answer {l : List TimerName} (hl : l.Nodup) (n : Nat) (s : State) :
    (tickAll l n s).2 = { irq := l.any fun tm => (systemTick tm s n).2.irq
                          nmi := l.any fun tm => (systemTick tm s n).2.nmi } := by
  induction l generalizing s with
  | nil => rfl
  | cons a l ih =>
    obtain ⟨ha, hl⟩ := List.nodup_cons.mp hl
    have halone : ∀ tm ∈ l, (systemTick tm (systemTick a s n).1 n).2 = (systemTick tm s n).2 := fun tm htm =>
      (systemTick_comm a tm (fun h => ha (h ▸ htm)) s n).2
    simp only [tickAll, ih hl, InterruptState.or, List.any_cons]
    congr 2
    · exact any_congr_of_mem fun tm htm => by rw [halone tm htm]
    · exact any_congr_of_mem fun tm htm => by rw [halone tm htm]

/-- A piece of state that only the timer `tm` writes: ticking a list of timers leaves it as `tm` alone would, or as it
was if `tm` is not in the list. -/
theorem tickAll_part {β : Type} {f : State → β} {tm : TimerName} {n : Nat}
    (hf : ∀ a s, a ≠ tm → f (systemTick a s n).1 = f s) {l : List TimerName} (hl : l.Nodup) (s : State) :
    f (tickAll l n s).1 = if tm ∈ l then f (systemTick tm s n).1 else f s := by
  induction l generalizing s with
  | nil => rfl
  | cons a l ih =>
    obtain ⟨ha, hl⟩ := List.nodup_cons.mp hl
    have hrest := ih hl (systemTick a s n).1
    rw [tickAll]
    by_cases h : a = tm
    · subst h
      rw [if_pos List.mem_cons_self]
      rwa [if_neg ha] at hrest
    · rw [(systemTick_comm a tm h s n).1, hf a _ h, hf a s h] at hrest
      simpa only [List.mem_cons, Ne.symm h, false_or] using hrest

/-- The order of the timers changes no result. -/
theorem tickAll_perm {l l' : List TimerName} (h : l.Perm l') (hl : l.Nodup) (n : Nat) (s : State) :
    tickAll l n s = tickAll l' n s := by
  induction h generalizing s with
  | nil => rfl
  | cons a _ ih => rw [tickAll, tickAll, ih (List.nodup_cons.mp hl).2]
  | swap a b l =>
    have hab : a ≠ b := by
      rintro rfl
      simp at hl
    obtain ⟨hstate, hb⟩ := systemTick_comm a b hab s n
    have ha := (systemTick_comm b a hab.symm s n).2
    simp only [tickAll, hstate, ha, hb, InterruptState.or, Bool.or_left_comm]
  | trans h1 _ ih1 ih2 => rw [ih1 hl, ih2 (h1.nodup hl)]

/-- With no whole tick or no timer, cpuTick only keeps the remainder (60_exceptions.md R298). -/
theorem cpuTick_idle {n : Nat} {s : State} (h : n + s.remainder < 2 ∨ s.timers = []) :
    cpuTick n s = (s.withManager s.timers ((n + s.remainder) % 2), .none) := by
  have hticks : (n + s.remainder) / 2 = 0 ∨ s.timers = [] := h.imp_left Nat.div_eq_of_lt
  simp only [cpuTick, Config.clockRatio, hticks, if_true]
  rfl

/-- With a whole tick, cpuTick ticks every registered timer with all of them and keeps the remainder. -/
theorem cpuTick_of_two_le {n : Nat} {s : State} (h : 2 ≤ n + s.remainder) :
    cpuTick n s = ((tickAll s.timers ((n + s.remainder) / 2) s).1.withManager s.timers ((n + s.remainder) % 2),
      (tickAll s.timers ((n + s.remainder) / 2) s).2) := by
  by_cases hl : s.timers = []
  · rw [cpuTick_idle (.inr hl), hl]
    rfl
  · have hticks : ¬((n + s.remainder) / 2 = 0 ∨ s.timers = []) := by
      rw [or_iff_left hl]
      omega
    rw [← tickAll_withManager]
    simp only [cpuTick, Config.clockRatio, hticks, if_false]
    rfl

/-- The System VIA's Timer 1 is its own timer's only; the frame timer writes that VIA's IFR. -/
theorem systemTick_systemVia_t1_of_ne (n : Nat) (a : TimerName) (s : State) (h : a ≠ .systemViaT1) :
    (systemTick a s n).1.systemVia.t1 = s.systemVia.t1 := by
  cases a with
  | systemViaT1 => exact absurd rfl h
  | userViaT1 => rfl
  | frame =>
    simp only [systemTick, frameSystemTick]
    split <;> rfl

theorem systemTick_userVia_of_ne (n : Nat) (a : TimerName) (s : State) (h : a ≠ .userViaT1) :
    (systemTick a s n).1.userVia = s.userVia := by
  cases a with
  | systemViaT1 => rfl
  | userViaT1 => exact absurd rfl h
  | frame =>
    simp only [systemTick, frameSystemTick]
    split <;> rfl

theorem systemTick_frameRemaining_of_ne (n : Nat) (a : TimerName) (s : State) (h : a ≠ .frame) :
    (systemTick a s n).1.frameRemaining = s.frameRemaining := by
  cases a with
  | systemViaT1 => rfl
  | userViaT1 => rfl
  | frame => exact absurd rfl h

/-- Settles O55: each timer writes its own piece of state and answers as it would alone, in any order. -/
theorem cpuTickMergesTimers : Obligations.CpuTickMergesTimers := by
  rintro n total s l rfl hl
  have hsplit := Nat.lt_or_ge (n + s.remainder) 2
  refine ⟨?remainder, cpuTick_idle, fun h => ?ticks, fun hperm => ?order⟩
  case remainder =>
    rcases hsplit with h | h
    · rw [cpuTick_idle (.inl h)]
      rfl
    · rw [cpuTick_of_two_le h]
      rfl
  case ticks =>
    rw [cpuTick_of_two_le h]
    refine ⟨tickAll_answer hl _ s, ?_, ?_, tickAll_part (systemTick_frameRemaining_of_ne _) hl s⟩
    · rw [apply_ite Prod.fst, apply_ite Via.t1]
      exact tickAll_part (f := fun u => u.systemVia.t1) (systemTick_systemVia_t1_of_ne _) hl s
    · rw [apply_ite Prod.fst]
      exact tickAll_part (systemTick_userVia_of_ne _) hl s
  case order =>
    rcases hsplit with h | h
    · rw [cpuTick_idle (s := { s with timers := l }) (.inl h), cpuTick_idle (.inl h)]
      rfl
    · have hreorder : tickAll l ((n + s.remainder) / 2) { s with timers := l }
          = ((tickAll s.timers ((n + s.remainder) / 2) s).1.withManager l s.remainder,
            (tickAll s.timers ((n + s.remainder) / 2) s).2) :=
        (tickAll_withManager l s _ l s.remainder).trans (by rw [tickAll_perm hperm (hperm.nodup_iff.mpr hl)])
      rw [cpuTick_of_two_le (s := { s with timers := l }) h, cpuTick_of_two_le h]
      simp only [hreorder]
      rfl

/-- Settles O56, by what the least of the timers' bounds is. -/
theorem availableCpuTicksIsLeastBound : Obligations.AvailableCpuTicksIsLeastBound := by
  intro s n
  obtain ⟨hsome, hnone⟩ := leastBound_spec (s.timers.map fun tm => availableTicks tm s)
  simp only [List.mem_map, forall_exists_index, and_imp, forall_apply_eq_imp_iff₂] at hsome hnone
  rw [availableCpuTicks, Option.map_eq_none_iff, Option.map_eq_some_iff]
  refine ⟨?_, hnone⟩
  simp only [hsome, Config.clockRatio]
  constructor
  · rintro ⟨t, ⟨⟨tm, htm, ht⟩, hmin⟩, rfl⟩
    exact ⟨⟨tm, htm, t, ht, Nat.mul_comm t 2⟩, fun tm' h u hu => by have := hmin u tm' h hu; omega⟩
  · rintro ⟨⟨tm, htm, t, ht, rfl⟩, hmin⟩
    exact ⟨t, ⟨⟨tm, htm, ht⟩, fun u tm' h hu => by have := hmin tm' h u hu; omega⟩, Nat.mul_comm t 2⟩

end Sys2Proof.Machine

/-! The family `70_reset_and_hazards`: what a launch starts, and which launches are refused. -/

namespace Sys2Proof.Machine

open Sys2Proof

/-- The images have their exact sizes, BANKS is a map and the parameters are in range (R335). -/
theorem Launch.wellFormed_iff (l : Launch) :
    l.wellFormed = true ↔ l.ramInit.length = 32768 ∧ l.osRom.length = 16384 ∧ (∀ e ∈ l.banks, e.2.length = 16384)
      ∧ bankKeysWellFormed l.banks = true ∧ l.cfg.wellFormed = true := by
  simp only [Launch.wellFormed, imageWellFormed, Bool.and_eq_true, List.all_eq_true, beq_iff_eq, and_assoc]

/-- Storing the images of a bank map keeps its keys. -/
theorem bankKeysWellFormed_map {α β : Type} (f : α → β) (banks : List (Byte × α)) :
    bankKeysWellFormed (banks.map fun e => (e.1, f e.2)) = bankKeysWellFormed banks := by
  induction banks with
  | nil => rfl
  | cons e rest ih => simp only [List.map_cons, bankKeysWellFormed, ih, List.any_map, Function.comp_def]

/-- In a bank map the key of an entry finds that entry's image. -/
theorem bankImage_of_mem {banks : List (Byte × Memory)} {e : Byte × Memory} (hkeys : bankKeysWellFormed banks = true)
    (he : e ∈ banks) : bankImage e.1 banks = some e.2 := by
  induction banks with
  | nil => nomatch he
  | cons head rest ih =>
    simp only [bankKeysWellFormed, Bool.and_eq_true, Bool.not_eq_true', List.any_eq_false, beq_iff_eq] at hkeys
    obtain ⟨hfresh, hrest⟩ := hkeys
    rcases List.mem_cons.1 he with rfl | he
    · exact if_pos rfl
    · exact (if_neg (Ne.symm (hfresh e he))).trans (ih hrest he)

/-- The invariant holds at reset for every canonical memory and parameters in range, whatever RESET_REGS is. -/
theorem Inv.atReset (r : ResetRegs) {ram osRom : Memory} {banks : List (Byte × Memory)} {cfg : Config}
    (hram : ram.wf 0x8000 = true) (hosRom : osRom.wf 0x4000 = true) (hbanks : ∀ e ∈ banks, e.2.wf 0x4000 = true)
    (hkeys : bankKeysWellFormed banks = true) (hcfg : cfg.wellFormed = true) :
    Inv (State.atReset r ram osRom banks cfg) :=
  { invAtReset with
    ramWf := hram, osRomWf := hosRom, banksWf := List.all_eq_true.2 hbanks, bankKeys := hkeys, cfgWf := hcfg }

/-- The storage of an image of the right size is canonical. -/
theorem Memory.ofImage_wf_of_length {image : List Byte} {size : Nat} (h : image.length = size) :
    (Memory.ofImage image).wf size = true :=
  h ▸ Memory.ofImage_wf image

/-- The state a well-formed launch starts in. -/
def Launch.initial (l : Launch) : State :=
  State.atReset l.regs (Memory.ofImage l.ramInit) (Memory.ofImage l.osRom)
    (l.banks.map fun e => (e.1, Memory.ofImage e.2)) l.cfg

theorem launch_of_wellFormed {l : Launch} (h : l.wellFormed = true) : launch l = some l.initial := if_pos h

theorem launch_eq_none_iff {l : Launch} : launch l = none ↔ ¬l.wellFormed = true := by
  simp only [launch, ite_eq_right_iff, reduceCtorEq, imp_false]

theorem Inv.initial {l : Launch} (h : l.wellFormed = true) : Inv l.initial := by
  obtain ⟨hram, hosRom, hbanks, hkeys, hcfg⟩ := l.wellFormed_iff.1 h
  refine .atReset _ (Memory.ofImage_wf_of_length hram) (Memory.ofImage_wf_of_length hosRom) ?_
    ((bankKeysWellFormed_map _ _).trans hkeys) hcfg
  exact List.forall_mem_map.2 fun e he => Memory.ofImage_wf_of_length (hbanks e he)

/-- PC is the word at 0xFFFC: offset 0x3FFC of the OS ROM image, low byte first (R330). -/
theorem initial_pc_toNat (l : Launch) :
    l.initial.pc.toNat = (l.osRom.getD 0x3FFC 0).toNat + 256 * (l.osRom.getD 0x3FFD 0).toNat := by
  have hread : ∀ o, (Memory.ofImage l.osRom).read o = l.osRom.getD o 0 := Memory.ofImage_read l.osRom
  rw [← hread, ← hread]
  exact addrOfBytes_toNat _ _

/-- The first batch's budget: twice the frame timer's 20000 system ticks, no Timer 1 running (R299, R333). -/
theorem availableCpuTicks_initial (l : Launch) : availableCpuTicks l.initial = some 40000 :=
  calc
    availableCpuTicks l.initial = availableCpuTicks State.reset := rfl
    _ = some 40000 := by decide

/-- A launched bank's key finds the storage of its image. -/
theorem bankImage_initial {l : Launch} (h : l.wellFormed = true) {e : Byte × List Byte} (he : e ∈ l.banks) :
    bankImage e.1 l.initial.banks = some (Memory.ofImage e.2) :=
  bankImage_of_mem (Inv.initial h).bankKeys (List.mem_map_of_mem (f := fun e => (e.1, Memory.ofImage e.2)) he)

/-- Every register of a VIA at reset reads 0, but that IER reads with bit 7 set (R274, R333). -/
theorem Via.get_reset : ∀ o ≤ 0xF, Via.reset.get o = if o = 0xE then 0x80 else 0 := by decide

/-- Settles O57: each clause reads one piece of `State.atReset`, the images through `Memory.ofImage`. -/
theorem launchStartsTheMachine : Obligations.LaunchStartsTheMachine := by
  refine fun l => ⟨fun h => ⟨l.initial, launch_of_wellFormed h, .initial h, rfl, rfl, rfl, rfl, rfl, ?pc, ?ram, ?osRom,
    ?banks, rfl, rfl, rfl, rfl, rfl, rfl, ?vias, rfl, rfl, rfl, availableCpuTicks_initial l, rfl, rfl, rfl⟩,
    fun hsize => ?refused⟩
  case pc => exact initial_pc_toNat l
  case ram => exact fun a _ => Memory.ofImage_read l.ramInit a
  case osRom => exact fun o _ => Memory.ofImage_read l.osRom o
  case banks => exact fun e he => ⟨_, bankImage_initial h he, fun o _ => Memory.ofImage_read e.2 o⟩
  case vias =>
    intro via hvia
    have hreset : via = Via.reset := by simpa [Launch.initial, State.atReset] using hvia
    subst hreset
    exact ⟨Via.get_reset, rfl, rfl, rfl⟩
  case refused =>
    rw [launch_eq_none_iff, Launch.wellFormed_iff]
    rintro ⟨hram, hosRom, hbanks, -, -⟩
    rcases hsize with hsize | hsize | ⟨e, he, hsize⟩
    · exact hsize hram
    · exact hsize hosRom
    · exact hsize (hbanks e he)

end Sys2Proof.Machine
